-- ==== Sys2Proof/Word.lean ====
section
/-! DEFINITION. The word types of the block: registers and the host bus are 32 bits wide (00_scope.md R3), a checksum and a
length register 16 bits, a buffer cell and a wire byte 8 bits (R8). -/

namespace Sys2Proof

/-- A control register, a field register, a command word, a bus datum (R3). -/
abbrev Word := BitVec 32

/-- A 16-bit quantity: an Internet checksum, a live length register, an EtherType. -/
abbrev Half := BitVec 16

/-- One byte (R8). -/
abbrev Byte := BitVec 8

/-- A byte sequence (R8). -/
abbrev Bytes := List Byte

end Sys2Proof
end

