-- ==== Sys2Proof/Syntax.lean ====
section
/-! DEFINITION. The instructions: the 38 commands of 30_encoding.md R83, one constructor per row of spec/opcode_table.json. A
command word has no operand field (R80, R85, R86), so no constructor has an argument. -/

namespace Sys2Proof

/-- A command of the block. -/
inductive Instr where
  /-- CRC32, CMD = 0x00000000: CRC32 of IBUF[0 ..< ILEN] (40_checksum_engine.md R105). -/
  | crc32
  /-- INET, CMD = 0x00000001: Internet checksum of IBUF[0 ..< ILEN] (40_checksum_engine.md R106). -/
  | inet
  /-- INETPH, CMD = 0x00000002: Internet checksum with pseudo-header (40_checksum_engine.md R107). -/
  | inetph
  /-- ETH.ENC, CMD = 0x00000010: Ethernet II encode (41_ethernet.md R123). -/
  | ethEnc
  /-- ETH.DEC, CMD = 0x00000011: Ethernet II decode (41_ethernet.md R124). -/
  | ethDec
  /-- ETH.CHK, CMD = 0x00000013: Ethernet CRC check (validate_crc) (41_ethernet.md R125). -/
  | ethChk
  /-- ARP.ENC, CMD = 0x00000020: ARP encode (42_arp_ndp.md R141). -/
  | arpEnc
  /-- ARP.DEC, CMD = 0x00000021: ARP decode (42_arp_ndp.md R142). -/
  | arpDec
  /-- ARP.VAL, CMD = 0x00000022: ARP validity (42_arp_ndp.md R143). -/
  | arpVal
  /-- NDP.ENC, CMD = 0x00000030: NDP encode (42_arp_ndp.md R145). -/
  | ndpEnc
  /-- NDP.DEC, CMD = 0x00000031: NDP decode (42_arp_ndp.md R146). -/
  | ndpDec
  /-- NDP.VAL, CMD = 0x00000032: NDP validity (42_arp_ndp.md R147). -/
  | ndpVal
  /-- ICMP.ENC, CMD = 0x00000040: ICMP encode (43_icmp_ipv4_ipv6.md R161). -/
  | icmpEnc
  /-- ICMP.DEC, CMD = 0x00000041: ICMP decode (43_icmp_ipv4_ipv6.md R162). -/
  | icmpDec
  /-- ICMP.VAL, CMD = 0x00000042: ICMP validity (43_icmp_ipv4_ipv6.md R163). -/
  | icmpVal
  /-- ICMP.CHK, CMD = 0x00000043: ICMP checksum check (43_icmp_ipv4_ipv6.md R164). -/
  | icmpChk
  /-- IP4.ENC, CMD = 0x00000050: IPv4 encode (43_icmp_ipv4_ipv6.md R168). -/
  | ip4Enc
  /-- IP4.DEC, CMD = 0x00000051: IPv4 decode (43_icmp_ipv4_ipv6.md R169). -/
  | ip4Dec
  /-- IP4.VAL, CMD = 0x00000052: IPv4 validity (43_icmp_ipv4_ipv6.md R170). -/
  | ip4Val
  /-- IP4.CHK, CMD = 0x00000053: IPv4 header checksum check (43_icmp_ipv4_ipv6.md R171). -/
  | ip4Chk
  /-- IP6.ENC, CMD = 0x00000060: IPv6 encode (43_icmp_ipv4_ipv6.md R173). -/
  | ip6Enc
  /-- IP6.DEC, CMD = 0x00000061: IPv6 decode (43_icmp_ipv4_ipv6.md R174). -/
  | ip6Dec
  /-- IP6.VAL, CMD = 0x00000062: IPv6 validity (43_icmp_ipv4_ipv6.md R175). -/
  | ip6Val
  /-- TCP.ENC, CMD = 0x00000070: TCP encode (44_tcp_udp.md R192). -/
  | tcpEnc
  /-- TCP.DEC, CMD = 0x00000071: TCP decode (44_tcp_udp.md R193). -/
  | tcpDec
  /-- TCP.VAL, CMD = 0x00000072: TCP validity (44_tcp_udp.md R194). -/
  | tcpVal
  /-- TCP.CHK, CMD = 0x00000073: TCP checksum check (44_tcp_udp.md R195). -/
  | tcpChk
  /-- UDP.ENC, CMD = 0x00000080: UDP encode (44_tcp_udp.md R197). -/
  | udpEnc
  /-- UDP.DEC, CMD = 0x00000081: UDP decode (44_tcp_udp.md R198). -/
  | udpDec
  /-- UDP.VAL, CMD = 0x00000082: UDP validity (44_tcp_udp.md R199). -/
  | udpVal
  /-- UDP.CHK, CMD = 0x00000083: UDP checksum check (44_tcp_udp.md R200). -/
  | udpChk
  /-- TLS.ENC, CMD = 0x00000090: TLS record header encode (45_tls_dns.md R211). -/
  | tlsEnc
  /-- TLS.DEC, CMD = 0x00000091: TLS record header decode (45_tls_dns.md R212). -/
  | tlsDec
  /-- TLS.VAL, CMD = 0x00000092: TLS record validity (45_tls_dns.md R213). -/
  | tlsVal
  /-- DNS.ENC, CMD = 0x000000A0: DNS header encode (45_tls_dns.md R215). -/
  | dnsEnc
  /-- DNS.DEC, CMD = 0x000000A1: DNS header decode (45_tls_dns.md R216). -/
  | dnsDec
  /-- DNS.VAL, CMD = 0x000000A2: DNS validity (45_tls_dns.md R217). -/
  | dnsVal
  /-- XFER, CMD = 0x000000F0: copy OBUF[0 ..< OLEN] to IBUF, ILEN <- OLEN (46_control.md R230). -/
  | xfer
deriving DecidableEq, Repr

end Sys2Proof
end

