-- ==== Sys2Proof/WellFormed.lean ====
section
/-! DEFINITION. Which 32-bit words are command words (30_encoding.md R80 to R84). A command has no operand, so the check is of
the word: its RSV bits, its family, its operation. Every term of `Instr` is the command of a well-formed word. -/

namespace Sys2Proof

/-- Why a word names no command (R83, R84). -/
inductive CommandDefect where
  /-- CMD[31:8] is not 0 (R80). -/
  | reservedBits
  /-- FAM is one of 0xB to 0xE (R81). -/
  | reservedFamily
  /-- OP is not an operation of the family (R82). -/
  | reservedOperation
deriving DecidableEq, Repr

/-- The operations of each family (R81, R82): ENC 0, DEC 1, VAL 2, CHK 3 in the protocol families, with no VAL in Ethernet
(R126) and CHK in 1, 4, 5, 7, 8 alone; CRC32, INET, INETPH in family 0; XFER in family 0xF. -/
def operationsOf (fam : BitVec 4) : List (BitVec 4) :=
  match fam.toNat with
  | 0x0 => [0, 1, 2]
  | 0x1 => [0, 1, 3]
  | 0x2 | 0x3 | 0x6 | 0x9 | 0xA => [0, 1, 2]
  | 0x4 | 0x5 | 0x7 | 0x8 => [0, 1, 2, 3]
  | 0xF => [0]
  | _ => []

/-- The first defect of a word, read in the order RSV, FAM, OP (R80). -/
def commandDefect (w : Word) : Option CommandDefect :=
  if w.extractLsb' 8 24 ≠ 0 then some .reservedBits
  else if operationsOf (w.extractLsb' 4 4) = [] then some .reservedFamily
  else if w.extractLsb' 0 4 ∉ operationsOf (w.extractLsb' 4 4) then some .reservedOperation
  else none

/-- A word that names a command (R83). -/
def wellFormedWord (w : Word) : Bool := (commandDefect w).isNone

end Sys2Proof
end

