-- ==== Sys2Proof/Decode.lean ====
section
/-! DEFINITION. Decoding and encoding of command words (30_encoding.md R80 to R86). `decode` reads a word by the opcode map of
R83 and rejects every other word by the name of its defect (R84); `encode` builds the word from the FAM and OP numbers of R81
and R82. -/

namespace Sys2Proof

/-- The opcode map of R83. -/
def opcodeMap : List (Word × Instr) := List.flatten [
  [(0x00000000, .crc32), (0x00000001, .inet), (0x00000002, .inetph)],
  [(0x00000010, .ethEnc), (0x00000011, .ethDec), (0x00000013, .ethChk)],
  [(0x00000020, .arpEnc), (0x00000021, .arpDec), (0x00000022, .arpVal)],
  [(0x00000030, .ndpEnc), (0x00000031, .ndpDec), (0x00000032, .ndpVal)],
  [(0x00000040, .icmpEnc), (0x00000041, .icmpDec), (0x00000042, .icmpVal), (0x00000043, .icmpChk)],
  [(0x00000050, .ip4Enc), (0x00000051, .ip4Dec), (0x00000052, .ip4Val), (0x00000053, .ip4Chk)],
  [(0x00000060, .ip6Enc), (0x00000061, .ip6Dec), (0x00000062, .ip6Val)],
  [(0x00000070, .tcpEnc), (0x00000071, .tcpDec), (0x00000072, .tcpVal), (0x00000073, .tcpChk)],
  [(0x00000080, .udpEnc), (0x00000081, .udpDec), (0x00000082, .udpVal), (0x00000083, .udpChk)],
  [(0x00000090, .tlsEnc), (0x00000091, .tlsDec), (0x00000092, .tlsVal)],
  [(0x000000A0, .dnsEnc), (0x000000A1, .dnsDec), (0x000000A2, .dnsVal)],
  [(0x000000F0, .xfer)]]

/-- The command a word of CMD names, or the defect that makes it BadCmd (R83, R84). -/
def decode (w : Word) : Except CommandDefect Instr :=
  match opcodeMap.lookup w with
  | some i => .ok i
  | none => .error ((commandDefect w).getD .reservedOperation)

/-- A command word from its fields: RSV = 0, FAM, OP (R80). -/
def commandWord (fam op : BitVec 4) : Word := 0#24 ++ fam ++ op

/-- The command word of a command, from its FAM (R81) and OP (R82). -/
def encode : Instr → Word
  | .crc32 => commandWord 0x0 0x0
  | .inet => commandWord 0x0 0x1
  | .inetph => commandWord 0x0 0x2
  | .ethEnc => commandWord 0x1 0x0
  | .ethDec => commandWord 0x1 0x1
  | .ethChk => commandWord 0x1 0x3
  | .arpEnc => commandWord 0x2 0x0
  | .arpDec => commandWord 0x2 0x1
  | .arpVal => commandWord 0x2 0x2
  | .ndpEnc => commandWord 0x3 0x0
  | .ndpDec => commandWord 0x3 0x1
  | .ndpVal => commandWord 0x3 0x2
  | .icmpEnc => commandWord 0x4 0x0
  | .icmpDec => commandWord 0x4 0x1
  | .icmpVal => commandWord 0x4 0x2
  | .icmpChk => commandWord 0x4 0x3
  | .ip4Enc => commandWord 0x5 0x0
  | .ip4Dec => commandWord 0x5 0x1
  | .ip4Val => commandWord 0x5 0x2
  | .ip4Chk => commandWord 0x5 0x3
  | .ip6Enc => commandWord 0x6 0x0
  | .ip6Dec => commandWord 0x6 0x1
  | .ip6Val => commandWord 0x6 0x2
  | .tcpEnc => commandWord 0x7 0x0
  | .tcpDec => commandWord 0x7 0x1
  | .tcpVal => commandWord 0x7 0x2
  | .tcpChk => commandWord 0x7 0x3
  | .udpEnc => commandWord 0x8 0x0
  | .udpDec => commandWord 0x8 0x1
  | .udpVal => commandWord 0x8 0x2
  | .udpChk => commandWord 0x8 0x3
  | .tlsEnc => commandWord 0x9 0x0
  | .tlsDec => commandWord 0x9 0x1
  | .tlsVal => commandWord 0x9 0x2
  | .dnsEnc => commandWord 0xA 0x0
  | .dnsDec => commandWord 0xA 0x1
  | .dnsVal => commandWord 0xA 0x2
  | .xfer => commandWord 0xF 0x0

/-- The host's question to the decoder: the command of an `nbits`-bit table word `w`; bits above `nbits` are 0. A command word
is the one 32-bit word written to CMD (R80), so a number that does not fit 32 bits is no command word. -/
def decodeTableWord (nbits w : Nat) : Option Instr :=
  let v := w % 2 ^ nbits
  if v < 2 ^ 32 then (decode (BitVec.ofNat 32 v)).toOption else none

end Sys2Proof
end

