-- ==== Sys2Proof/Config.lean ====
section
/-! DEFINITION. What an implementation fixes, and the free values. The four open parameters of 92_eei_decisions.md D48 are
BUF_BYTES (held by every state in its BUFSZ register, log 4), CODEC_BASE, ETYPE_NDP and ETYPE_ICMP (opaque here). A free value
is an opaque function of a counter that the state holds, so nothing can be proved of it but that it is a value. -/

namespace Sys2Proof

/-- The default value of the parameter BUF_BYTES (00_scope.md R1). Used by the initial state alone: every rule reads the
parameter from the state's BUFSZ register. -/
def Config.bufBytesDefault : Nat := 4096

/-- The constraint on BUF_BYTES (00_scope.md R1). -/
abbrev Config.legalBufBytes (n : Nat) : Prop := 1536 ≤ n ∧ n ≤ 65535

/-- CODEC_BASE, the block's base address: OPEN (00_scope.md R5, U8; log 6). Of several blocks, that of the one with the lowest
base. -/
opaque Config.codecBase : Nat

/-- How far apart the base addresses of several blocks are: OPEN (60_exceptions.md R252; log 22). -/
opaque Config.baseGap : Nat → Nat

/-- The base address of block `k` of several, numbered by rising base address, so that the addresses are distinct (R252; log 22). -/
def Config.blockBase (k : Nat) : Nat :=
  match k with
  | 0 => Config.codecBase
  | j + 1 => Config.blockBase j + 1 + Config.baseGap j

/-- ETYPE_NDP: OPEN (00_scope.md R2, U10; log 5). -/
opaque Config.etypeNdp : Half

/-- ETYPE_ICMP: OPEN (00_scope.md R2, U10; log 5). -/
opaque Config.etypeIcmp : Half

/-- The n-th free byte: what a host read of an unwritten buffer byte returns (10_state.md R38 (b), U1). DESIGN
CHOICE (log 12): several blocks draw from this one function, each at its own counter. -/
opaque Config.freeByte : Nat → Byte

/-- The n-th free word: what a 32-bit host read inside the busy window returns (70_reset_and_hazards.md R262, U3). DESIGN
CHOICE (log 12): one function for several blocks, as with `Config.freeByte`. -/
opaque Config.freeWord : Nat → Word

end Sys2Proof
end

