-- ==== Sys2Proof/Machine/Crc.lean ====
section
/-! DEFINITION. The CRC32 lookup ROM's contents (40_checksum_engine.md R100, 10_state.md R39). -/

namespace Sys2Proof.Machine

/-- One turn of the construction loop of R100: shift right, and XOR the reflected polynomial when bit 0 was 1. -/
def crcShift (c : Word) : Word :=
  if c.getLsbD 0 then (c >>> 1) ^^^ 0xEDB88320#32 else c >>> 1

/-- T[i] of R100: the loop taken 8 times from the index. -/
def crcEntry (i : Nat) : Word := crcShift^[8] (BitVec.ofNat 32 i)

/-- The 256 entries T[0] to T[255] (R100, 00_scope.md R6). -/
def crcTable : Vector Word 256 := Vector.ofFn fun i => crcEntry i.val

end Sys2Proof.Machine
end

