-- ==== Sys2Proof/Machine/State.lean ====
section
/-! DEFINITION. The state of the block as plain data (10_state.md R20), the host's turns, the two reason types of a stop, and the
state after reset (70_reset_and_hazards.md R260). -/

namespace Sys2Proof.Machine

/-- A byte buffer: the written bytes as (index, byte), indices strictly rising. An index that is not listed is a byte whose
written flag is clear and has no value (10_state.md R36 to R38; log 7). -/
abbrev Memory := List Host.Cell

/-- The outcome codes of STATUS.ERR (10_state.md R27). Codes 5 to 15 are never produced and have no constructor (log 23). -/
inductive Code where
  /-- 0: success. -/
  | ok
  /-- 1: TOOSHORT. -/
  | tooShort
  /-- 2: INVALIDFORMAT, reserved, produced by no command. -/
  | invalidFormat
  /-- 3: BADARG. -/
  | badArg
  /-- 4: BADCMD. -/
  | badCmd
deriving DecidableEq, Repr

/-- A byte of one of the two buffers, by its index. -/
inductive ByteRef where
  | ibuf (i : Nat)
  | obuf (i : Nat)
deriving DecidableEq, Repr

/-- The width of a bus access (20_memory.md R52, R53, R56). -/
inductive Width where
  | byte
  | half
  | word
deriving DecidableEq, Repr

/-- What a bus access does; a byte-wide write uses the low 8 bits of its datum. -/
inductive AccessOp where
  | read
  | write (v : Word)
deriving DecidableEq, Repr

/-- One turn of the agents around the block (20_memory.md R50; log 1). -/
inductive Turn where
  /-- A host access at a byte offset from CODEC_BASE (20_memory.md R51, 30_encoding.md R87). -/
  | access (offset : Nat) (width : Width) (op : AccessOp)
  /-- A host access at an absolute bus address (00_scope.md R5; log 6). -/
  | bus (address : Nat) (width : Width) (op : AccessOp)
  /-- The host's pseudo-instruction WAIT: poll STATUS until bit 0 of the value read is 0 (30_encoding.md R87; log 14). -/
  | wait
  /-- The engine takes its step, if it has one (20_memory.md R61). -/
  | engine
  /-- The platform asserts reset (70_reset_and_hazards.md R260). -/
  | reset
deriving DecidableEq, Repr

/-- The state. The first group is the spec's (10_state.md R20), the second the model's own (log 8, 9, 12, 13, 1). -/
structure State where
  /-- CMD (R21). -/
  cmd : Word
  /-- STATUS.BUSY (R23). -/
  busy : Bool
  /-- STATUS.DONE (R24). -/
  done : Bool
  /-- STATUS.ERR (R25, R27). -/
  err : Code
  /-- RESULT[0]; RESULT[31:1] read 0 (R28; log 17). -/
  result : Bool
  /-- CSUM (R29). -/
  csum : Word
  /-- ILEN[15:0]; ILEN[31:16] read 0 (R30; log 17). -/
  ilen : Half
  /-- OLEN[15:0]; OLEN[31:16] read 0 (R31; log 17). -/
  olen : Half
  /-- BUFSZ, the constant BUF_BYTES (R32; log 4). -/
  bufsz : Word
  /-- The field registers F0 to F15 (R33). -/
  f : Vector Word 16
  /-- The written bytes of IBUF (R36, R38). -/
  ibuf : Memory
  /-- The written bytes of OBUF (R37, R38). -/
  obuf : Memory
  /-- CRCROM (R39; log 18). -/
  crcrom : Vector Word 256
  /-- FAULT, the spec's model-only mark (R42). -/
  fault : Bool
  /-- The first unwritten byte an engine read met; the engine then has no further step (60_exceptions.md R244; log 8). -/
  stuckAt : Option ByteRef
  /-- The busy-hazard window is open (70_reset_and_hazards.md R262; log 9). -/
  window : Bool
  /-- The value returned by the last host read (20_memory.md R52, R53). -/
  readData : Word
  /-- How many free values host reads have drawn (10_state.md R38; log 12). -/
  draws : Nat
  /-- The turns still to come (log 1). -/
  agenda : List Turn
deriving DecidableEq, Repr

/-- Why a step faults. -/
inductive Fault where
  /-- Raised by a host access whose bus address is outside the block's 18-bit address space (00_scope.md R5): the block has
  nothing there. Safe: the model stops (log 6). -/
  | outsideAddressSpace (address : Nat)
deriving DecidableEq, Repr

/-- Why a step is refused. -/
inductive Refusal where
  /-- Raised by `exec` for an instruction without a meaning; no arm raises it. Safe: the model stops. -/
  | notModelled (mnemonic : String)
  /-- Raised by a host access that 20_memory.md R56 gives no meaning: a 16-bit access, an 8-bit access to a register, a
  misaligned 32-bit access. Safe: the model stops, as R56 asks. -/
  | hostAccess (offset : Nat) (width : Width)
deriving DecidableEq, Repr

/-- The machine right after reset (70_reset_and_hazards.md R260), with BUF_BYTES at its default and no turn to come. -/
def State.reset : State where
  cmd := 0
  busy := false
  done := false
  err := .ok
  result := false
  csum := 0
  ilen := 0
  olen := 0
  bufsz := BitVec.ofNat 32 Config.bufBytesDefault
  f := Vector.replicate 16 0
  ibuf := []
  obuf := []
  crcrom := crcTable
  fault := false
  stuckAt := none
  window := false
  readData := 0
  draws := 0
  agenda := []

end Sys2Proof.Machine
end

