-- ==== Sys2Proof/Machine/Memory.lean ====
section
/-! DEFINITION. The byte buffers' operations over their one canonical form (10_state.md R36 to R38). -/

namespace Sys2Proof.Machine

/-- The canonical form: strictly rising indices. An unlisted byte has no value, so no listed entry equals one. -/
abbrev Memory.wf (m : Memory) : Prop := m.Pairwise fun a b => a.1 < b.1

/-- Every written byte lies inside a buffer of `size` bytes (10_state.md R36, R37). -/
abbrev Memory.within (m : Memory) (size : Nat) : Prop := ∀ c ∈ m, c.1 < size

/-- The byte at index `a`, or `none` when its written flag is clear (R38). -/
def Memory.read (m : Memory) (a : Nat) : Option Byte :=
  match m with
  | [] => none
  | (k, b) :: rest => if k = a then some b else Memory.read rest a

/-- Writes one byte and sets its written flag (R38). -/
def Memory.write (m : Memory) (a : Nat) (b : Byte) : Memory :=
  match m with
  | [] => [(a, b)]
  | (k, c) :: rest =>
    if a < k then (a, b) :: (k, c) :: rest
    else if a = k then (a, b) :: rest
    else (k, c) :: Memory.write rest a b

/-- MemWriteSeq of 00_scope.md R9: the sequence at bytes `a`, `a + 1`, … -/
def Memory.writeSeq (m : Memory) (a : Nat) (s : Bytes) : Memory :=
  match s with
  | [] => m
  | b :: rest => Memory.writeSeq (m.write a b) (a + 1) rest

end Sys2Proof.Machine
end

