-- ==== Sys2Proof/Machine/Operands.lean ====
section
/-! DEFINITION. Byte sequences, big-endian values, and the field registers as operands (00_scope.md R7 to R9, 10_state.md R33 to
R35, R41, 30_encoding.md R85). -/

namespace Sys2Proof.Machine

/-- `be_n(v)`: the n-byte big-endian encoding of `v mod 2^(8n)` (R8). -/
def be (n v : Nat) : Bytes :=
  match n with
  | 0 => []
  | k + 1 => BitVec.ofNat 8 (v / 256 ^ k) :: be k v

/-- `BE(s)`: the unsigned value of a sequence read big-endian (R8). -/
def beVal (s : Bytes) : Nat :=
  match s with
  | [] => 0
  | b :: t => b.toNat * 256 ^ t.length + beVal t

/-- `zeros(n)` (R8). -/
def zeros (n : Nat) : Bytes := List.replicate n 0

/-- `s[a ..< b]` (R8). -/
def seg (s : Bytes) (a b : Nat) : Bytes := (s.take b).drop a

/-- Byte `i` of a sequence (R8). -/
def byteAt (s : Bytes) (i : Nat) : Byte := s.getD i 0

/-- `BE(s[a ..< b])` as the 32-bit value a DEC writes (10_state.md R34, R41). -/
def wordAt (s : Bytes) (a b : Nat) : Word := BitVec.ofNat 32 (beVal (seg s a b))

/-- `F[k]` (R9). -/
def State.freg (s : State) (k : Fin 16) : Word := s.f[k]

/-- `F[k] <- v` (R9). -/
def State.setF (s : State) (k : Fin 16) (v : Word) : State := { s with f := s.f.set k v }

/-- Several field-register writes (10_state.md R33). -/
def State.setFs (s : State) (ws : List (Fin 16 × Word)) : State :=
  match ws with
  | [] => s
  | (k, v) :: rest => State.setFs (s.setF k v) rest

/-- `trunc_W(F[k])`: a field of width W as an operand (10_state.md R34). -/
def State.field (s : State) (w : Nat) (k : Fin 16) : Nat := (s.freg k).toNat % 2 ^ w

/-- `be_n(F[k])`: the n bytes an ENC copies from a field register (R8, R34, R41). -/
def State.beF (s : State) (n : Nat) (k : Fin 16) : Bytes := be n (s.freg k).toNat

/-- The data slice F12 = offset, F13 = length (10_state.md R35). -/
def dataSlice (off len : Nat) : List (Fin 16 × Word) := [(12, BitVec.ofNat 32 off), (13, BitVec.ofNat 32 len)]

/-- The options slice F10 = length, F11 = offset (10_state.md R35). -/
def optionsSlice (len off : Nat) : List (Fin 16 × Word) := [(10, BitVec.ofNat 32 len), (11, BitVec.ofNat 32 off)]

end Sys2Proof.Machine
end

