-- ==== Sys2Proof/Machine/Flags.lean ====
section
/-! DEFINITION. The STATUS word and the writes of its fields (10_state.md R22 to R27), and the outcome bits RESULT and CSUM (R28,
R29). -/

namespace Sys2Proof.Machine

/-- The 4-bit number of an outcome code (R27). -/
def codeBits (c : Code) : BitVec 4 :=
  match c with
  | .ok => 0
  | .tooShort => 1
  | .invalidFormat => 2
  | .badArg => 3
  | .badCmd => 4

/-- STATUS as the host reads it (R22): 31:8 zero, ERR 7:4, 3:2 zero, DONE 1, BUSY 0. -/
def State.statusWord (s : State) : Word :=
  0#24 ++ codeBits s.err ++ 0#2 ++ BitVec.ofBool s.done ++ BitVec.ofBool s.busy

/-- RESULT as the host reads it (R28). -/
def State.resultWord (s : State) : Word := (BitVec.ofBool s.result).setWidth 32

/-- Completing a command writes STATUS: BUSY <- 0, DONE <- 1, ERR <- code (R26). -/
def State.complete (s : State) (c : Code) : State := { s with busy := false, done := true, err := c }

/-- The CMD write that starts a command: CMD <- v, BUSY <- 1, DONE <- 0, ERR <- 0 (20_memory.md R58). It opens the busy window
(70_reset_and_hazards.md R262). -/
def State.startCommand (s : State) (v : Word) : State :=
  { s with cmd := v, busy := true, done := false, err := .ok, window := true }

/-- RESULT <- ok ? 1 : 0 (R28). -/
def State.setResult (s : State) (ok : Bool) : State := { s with result := ok }

/-- CSUM <- v (R29). -/
def State.setCsum (s : State) (v : Word) : State := { s with csum := v }

end Sys2Proof.Machine
end

