-- ==== Sys2Proof/Machine/Ops.lean ====
section
/-! DEFINITION. The shared operations of the command rules: raising an error (00_scope.md R10), reading and writing the buffers
(R9), the helper procedures of 30_encoding.md R90 to R93, and the end of a command: completion, error or engine fault, as ONE
operation `finish` (10_state.md R26, 60_exceptions.md R241, R244). The block has no trap entry and no return (R246, R247). -/

namespace Sys2Proof.Machine

/-- The errors a command's pseudocode raises (00_scope.md R10). BadCmd is decided before any pseudocode runs (R243). -/
inductive Error where
  | tooShort
  | badArg
deriving DecidableEq, Repr

/-- What ends a command's pseudocode early. -/
inductive Stop where
  /-- `raise E` (00_scope.md R10). -/
  | raise (e : Error)
  /-- A read of a byte whose written flag is clear (10_state.md R38). -/
  | unwritten (r : ByteRef)
deriving DecidableEq, Repr

/-- A command's pseudocode: a value, or what ended it. -/
abbrev Cmd (α : Type) := Except Stop α

/-- The outcome of a step. -/
abbrev Result := Host.Outcome State Fault Refusal

/-- The status code of a raised error (10_state.md R25, R27). -/
def errorCode (e : Error) : Code :=
  match e with
  | .tooShort => .tooShort
  | .badArg => .badArg

/-- The engine fault: FAULT is set, nothing else is committed, STATUS stays busy, and the engine has no further step
(60_exceptions.md R244; log 8). -/
def State.engineFault (s : State) (r : ByteRef) : State := { s with fault := true, stuckAt := some r }

/-- The end of a command that began in state `s`: all its writes and OK, or an error code and nothing else, or the engine fault
(10_state.md R25, R26, 60_exceptions.md R241, R244). -/
def finish (s : State) (r : Cmd State) : Result :=
  match r with
  | .ok t => .next (t.complete .ok)
  | .error (.raise e) => .next (s.complete (errorCode e))
  | .error (.unwritten b) => .next (s.engineFault b)

/-- `if not p then raise e`. -/
def ensure (p : Prop) [Decidable p] (e : Error) : Cmd Unit := if p then .ok () else .error (.raise e)

/-- BUF_BYTES (00_scope.md R1, 10_state.md R32). -/
def State.bufBytes (s : State) : Nat := s.bufsz.toNat

/-- `check_ilen()`: n, or BadArg when n > BUF_BYTES (30_encoding.md R90). -/
def checkIlen (s : State) : Cmd Nat := do
  ensure (s.ilen.toNat ≤ s.bufBytes) .badArg
  pure s.ilen.toNat

/-- MemRead of 00_scope.md R9: `n` bytes of `m` from index `a`; the first unwritten one, named by `ref`, ends the command. -/
def memRead (m : Memory) (ref : Nat → ByteRef) (a n : Nat) : Cmd Bytes :=
  match n with
  | 0 => .ok []
  | k + 1 =>
    match m.read a with
    | none => .error (.unwritten (ref a))
    | some b => (memRead m ref (a + 1) k).map (b :: ·)

/-- `MemRead(IBUF, a, n)`. -/
def readIbuf (s : State) (a n : Nat) : Cmd Bytes := memRead s.ibuf .ibuf a n

/-- `MemRead(OBUF, a, n)`. -/
def readObuf (s : State) (a n : Nat) : Cmd Bytes := memRead s.obuf .obuf a n

/-- `emit(out)`: BadArg when the output exceeds BUF_BYTES, else the bytes at OBUF[0] and OLEN (30_encoding.md R91). -/
def emit (s : State) (out : Bytes) : Cmd State := do
  ensure (out.length ≤ s.bufBytes) .badArg
  pure { s with obuf := s.obuf.writeSeq 0 out, olen := BitVec.ofNat 16 out.length }

/-- `check_opt(o)`: the options length is at most 40, a multiple of 4, and at most n (30_encoding.md R92). -/
def checkOpt (o n : Nat) : Cmd Unit := ensure (o ≤ 40 ∧ o % 4 = 0 ∧ o ≤ n) .badArg

/-- `csum_check(s, pos)` with checksum function `f`: the recomputed value and whether the stored one equals it
(30_encoding.md R93). -/
def csumCheck (f : Bytes → Half) (s : Bytes) (pos : Nat) : Half × Bool :=
  let c := f (seg s 0 pos ++ zeros 2 ++ seg s (pos + 2) s.length)
  (c, c.toNat == beVal (seg s pos (pos + 2)))

/-- CSUM and RESULT of an Internet-checksum CHK command (10_state.md R28, R29). -/
def State.setCheck (s : State) (r : Half × Bool) : State := (s.setCsum (r.1.setWidth 32)).setResult r.2

/-- The reset input (70_reset_and_hazards.md R260): every register but BUFSZ to 0, every written flag cleared, the running
command discarded, FAULT, BUFSZ and CRCROM unaffected. What belongs to the host's side stays (log 19). -/
def State.blockReset (s : State) : State :=
  { s with
    cmd := 0, busy := false, done := false, err := .ok, result := false, csum := 0, ilen := 0, olen := 0
    f := Vector.replicate 16 0, ibuf := [], obuf := [], stuckAt := none, window := false }

end Sys2Proof.Machine
end

