-- ==== Sys2Proof/Machine/Bus.lean ====
section
/-! DEFINITION. The host's accesses (20_memory.md R51 to R58) and the busy hazard (70_reset_and_hazards.md R262). -/

namespace Sys2Proof.Machine

/-- What stands at a byte offset of the address map (R51). -/
inductive Target where
  | cmd
  | status
  | result
  | csum
  | ilen
  | olen
  | bufsz
  | field (k : Fin 16)
  | ibuf (i : Nat)
  | obuf (i : Nat)
  | reserved
deriving DecidableEq, Repr

/-- The first byte offset past the block's 18-bit address space (00_scope.md R5). -/
def addressSpaceEnd : Nat := 0x40000

/-- The address map of R51. -/
def target (off : Nat) : Target :=
  if off < 0x40 then
    match off / 4 with
    | 0 => .cmd
    | 1 => .status
    | 2 => .result
    | 3 => .csum
    | 4 => .ilen
    | 5 => .olen
    | 6 => .bufsz
    | _ => .reserved
  else if off < 0x80 then .field (Fin.ofNat 16 ((off - 0x40) / 4))
  else if off < 0x10000 then .reserved
  else if off < 0x20000 then .ibuf (off - 0x10000)
  else if off < 0x30000 then .obuf (off - 0x20000)
  else .reserved

/-- The accesses R52 to R55 give a meaning; R56 refuses the others. At a reserved offset an 8-bit access is R54's (log 11). -/
def meaningful (off : Nat) (w : Width) : Bool :=
  match w with
  | .half => false
  | .word => off % 4 == 0
  | .byte =>
    match target off with
    | .ibuf _ | .obuf _ | .reserved => true
    | .cmd | .status | .result | .csum | .ilen | .olen | .bufsz | .field _ => false

/-- The accesses the host may perform inside the busy window: 32-bit reads of STATUS and BUFSZ (R262). -/
def allowedInWindow (off : Nat) (w : Width) (op : AccessOp) : Bool :=
  w == .word && op == .read && (target off == .status || target off == .bufsz)

/-- One byte of a buffer as a host read sees it, and the draws used: 0 at or above BUF_BYTES (R54), a free value when the byte
is unwritten (10_state.md R38 (b)). DESIGN CHOICE (log 12): the n-th draw of one block of several is the n-th draw of another. -/
def hostByte (size : Nat) (m : Memory) (i draws : Nat) : Byte × Nat :=
  if size ≤ i then (0, draws)
  else
    match m.read i with
    | some b => (b, draws)
    | none => (Config.freeByte draws, draws + 1)

/-- A host read of a buffer window: one byte, or four lanes with byte i+j in bits 8j+7 to 8j (R53). -/
def hostBufferRead (s : State) (m : Memory) (w : Width) (i : Nat) : State :=
  match w with
  | .word =>
    let b0 := hostByte s.bufBytes m i s.draws
    let b1 := hostByte s.bufBytes m (i + 1) b0.2
    let b2 := hostByte s.bufBytes m (i + 2) b1.2
    let b3 := hostByte s.bufBytes m (i + 3) b2.2
    { s with readData := b3.1 ++ b2.1 ++ b1.1 ++ b0.1, draws := b3.2 }
  | .byte | .half =>
    let b := hostByte s.bufBytes m i s.draws
    { s with readData := b.1.setWidth 32, draws := b.2 }

/-- A host write of one IBUF byte; ignored at or above BUF_BYTES (R53, R54). -/
def ibufPoke (size : Nat) (m : Memory) (i : Nat) (b : Byte) : Memory := if size ≤ i then m else m.write i b

/-- A host write of the IBUF window: one byte, or four lanes (R53). -/
def hostIbufWrite (s : State) (w : Width) (i : Nat) (v : Word) : State :=
  match w with
  | .word =>
    let m0 := ibufPoke s.bufBytes s.ibuf i (v.extractLsb' 0 8)
    let m1 := ibufPoke s.bufBytes m0 (i + 1) (v.extractLsb' 8 8)
    let m2 := ibufPoke s.bufBytes m1 (i + 2) (v.extractLsb' 16 8)
    { s with ibuf := ibufPoke s.bufBytes m2 (i + 3) (v.extractLsb' 24 8) }
  | .byte | .half => { s with ibuf := ibufPoke s.bufBytes s.ibuf i (v.extractLsb' 0 8) }

/-- A host read (R52 to R54); its value is left in `readData`. The polling read of STATUS with BUSY = 0 closes the busy window
(R62, R262). -/
def hostRead (s : State) (off : Nat) (w : Width) : State :=
  match target off with
  | .cmd => { s with readData := s.cmd }
  | .status => { s with readData := s.statusWord, window := s.window && s.busy }
  | .result => { s with readData := s.resultWord }
  | .csum => { s with readData := s.csum }
  | .ilen => { s with readData := s.ilen.setWidth 32 }
  | .olen => { s with readData := s.olen.setWidth 32 }
  | .bufsz => { s with readData := s.bufsz }
  | .field k => { s with readData := s.freg k }
  | .ibuf i => hostBufferRead s s.ibuf w i
  | .obuf i => hostBufferRead s s.obuf w i
  | .reserved => { s with readData := 0 }

/-- A host write (R52 to R55, R58): CMD starts a command, ILEN keeps 16 bits, read-only registers, OBUF and reserved offsets
ignore it. -/
def hostWrite (s : State) (off : Nat) (w : Width) (v : Word) : State :=
  match target off with
  | .cmd => s.startCommand v
  | .ilen => { s with ilen := v.setWidth 16 }
  | .field k => s.setF k v
  | .ibuf i => hostIbufWrite s w i v
  | .status | .result | .csum | .olen | .bufsz | .obuf _ | .reserved => s

/-- A CMD write while BUSY = 0 that comes before the polling read of the last command: it starts its command (10_state.md R21,
20_memory.md R58), and is marked as a hazard violation (70_reset_and_hazards.md R262). DESIGN CHOICE (log 9): R262 says besides that
a violating write changes no other state, which R21 and R58 contradict here; the model follows R21 and R58. -/
def unpolledCmdWrite (s : State) (v : Word) : State := { s with fault := true }.startCommand v

/-- A busy-hazard violation: FAULT is set, a read returns a free value, and a write changes nothing else (R262; log 12), but for the
CMD write while BUSY = 0 (R58; log 9). -/
def hazardViolation (s : State) (off : Nat) (w : Width) (op : AccessOp) : State :=
  match op with
  | .write v => if target off = .cmd ∧ s.busy = false then unpolledCmdWrite s v else { s with fault := true }
  | .read =>
    match w with
    | .byte => { s with fault := true, readData := (Config.freeByte s.draws).setWidth 32, draws := s.draws + 1 }
    | .half | .word => { s with fault := true, readData := Config.freeWord s.draws, draws := s.draws + 1 }

/-- The busy hazard applies: a command runs, or its completion has not been read from STATUS yet (R58, R262; log 9). -/
def State.hazardOpen (s : State) : Bool := s.busy || s.window

/-- One host access at a byte offset (R51 to R58, R262). An access without a meaning is refused before the hazard is looked at
(log 10). -/
def hostAccess (off : Nat) (w : Width) (op : AccessOp) (s : State) : Result :=
  if addressSpaceEnd ≤ off then .fault (.outsideAddressSpace off)
  else if meaningful off w = false then .refused (.hostAccess off w)
  else if s.hazardOpen && !allowedInWindow off w op then .next (hazardViolation s off w op)
  else
    match op with
    | .read => .next (hostRead s off w)
    | .write v => .next (hostWrite s off w v)

/-- One host access at an absolute bus address to a block at `base`: the access at the offset from it (00_scope.md R5,
20_memory.md R51; log 6). -/
def busAccess (base address : Nat) (w : Width) (op : AccessOp) (s : State) : Result :=
  if address < base then .fault (.outsideAddressSpace address)
  else hostAccess (address - base) w op s

/-- The offset of STATUS (R51). -/
def statusOffset : Nat := 0x4

/-- The host's WAIT: a read of STATUS and, when bit 0 of the value is 1, WAIT again after the engine's turn (30_encoding.md
R87; log 14). `s` is the state with the WAIT taken off its agenda. -/
def hostWait (s : State) : State :=
  let t := hostRead s statusOffset .word
  if t.readData.getLsbD 0 then { t with agenda := .engine :: .wait :: t.agenda } else t

end Sys2Proof.Machine
end

