-- ==== Sys2Proof/Machine/ArpNdp.lean ====
section
/-! DEFINITION. The ARP and NDP codecs, families 0x2 and 0x3 (42_arp_ndp.md R140 to R147). -/

namespace Sys2Proof.Machine

/-- ARP.ENC (R141). -/
def execArpEnc (s : State) : Result := finish s do
  emit s (s.beF 2 0 ++ s.beF 2 1 ++ s.beF 1 2 ++ s.beF 1 3 ++ s.beF 2 4 ++ s.beF 2 5 ++ s.beF 4 6 ++ s.beF 4 7 ++
    s.beF 2 8 ++ s.beF 4 9 ++ s.beF 4 10)

/-- ARP.DEC (R142). -/
def execArpDec (s : State) : Result := finish s do
  let n ← checkIlen s
  ensure (28 ≤ n) .tooShort
  let b ← readIbuf s 0 28
  pure (s.setFs [(0, wordAt b 0 2), (1, wordAt b 2 4), (2, wordAt b 4 5), (3, wordAt b 5 6), (4, wordAt b 6 8),
    (5, wordAt b 8 10), (6, wordAt b 10 14), (7, wordAt b 14 18), (8, wordAt b 18 20), (9, wordAt b 20 24),
    (10, wordAt b 24 28)])

/-- ARP.VAL (R143). -/
def execArpVal (s : State) : Result := finish s do
  pure (s.setResult (s.field 16 0 == 1 && s.field 16 1 == 0x0800 && s.field 8 2 == 6 && s.field 8 3 == 4))

/-- NDP.ENC (R145). -/
def execNdpEnc (s : State) : Result := finish s do
  let n ← checkIlen s
  let d ← readIbuf s 0 n
  let t ← emit s (s.beF 1 0 ++ s.beF 1 1 ++ s.beF 2 2 ++ s.beF 4 3 ++ s.beF 4 4 ++ s.beF 4 5 ++ s.beF 4 6 ++ s.beF 4 7 ++ d)
  pure (t.setFs (dataSlice 0 n))

/-- NDP.DEC (R146). -/
def execNdpDec (s : State) : Result := finish s do
  let n ← checkIlen s
  ensure (24 ≤ n) .tooShort
  let b ← readIbuf s 0 24
  pure (s.setFs ([(0, wordAt b 0 1), (1, wordAt b 1 2), (2, wordAt b 2 4), (3, wordAt b 4 8), (4, wordAt b 8 12),
    (5, wordAt b 12 16), (6, wordAt b 16 20), (7, wordAt b 20 24)] ++ dataSlice 24 (n - 24)))

/-- NDP.VAL (R147). -/
def execNdpVal (s : State) : Result := finish s do
  pure (s.setResult (decide (133 ≤ s.field 8 0 ∧ s.field 8 0 ≤ 136)))

end Sys2Proof.Machine
end

