-- ==== Sys2Proof/Machine/Control.lean ====
section
/-! DEFINITION. The control family 0xF (46_control.md R230, R231). -/

namespace Sys2Proof.Machine

/-- XFER (R230): OBUF[0 ..< OLEN] to IBUF, ILEN <- OLEN. -/
def execXfer (s : State) : Result := finish s do
  let d ← readObuf s 0 s.olen.toNat
  pure { s with ibuf := s.ibuf.writeSeq 0 d, ilen := s.olen }

end Sys2Proof.Machine
end

