-- ==== Sys2Proof/Machine/Checksum.lean ====
section
/-! DEFINITION. The checksum engine: the functions crc32, inet, pseudo, inetph (40_checksum_engine.md R101 to R104) and the
commands of family 0x0 (R105 to R107). -/

namespace Sys2Proof.Machine

/-- The table index of R101: the low byte of the running register XOR the input byte. -/
def crcIndex (r : Word) (b : Byte) : Fin 256 := (r.setWidth 8 ^^^ b).toFin

/-- The per-byte update of R101, reading CRCROM. -/
def crcByte (rom : Vector Word 256) (r : Word) (b : Byte) : Word := rom[crcIndex r b] ^^^ (r >>> 8)

/-- `crc32(s)` (R101). -/
def crc32 (rom : Vector Word 256) (s : Bytes) : Word :=
  s.foldl (crcByte rom) 0xFFFFFFFF#32 ^^^ 0xFFFFFFFF#32

/-- The sum of the big-endian 16-bit words; an odd last byte is a high byte (R102). -/
def wordSum (s : Bytes) : Nat :=
  match s with
  | [] => 0
  | [b] => b.toNat * 256
  | a :: b :: t => a.toNat * 256 + b.toNat + wordSum t

/-- The loop of R102: fold the carries until none is left. Every turn lowers a sum above 0xFFFF, so `fuel = sum` suffices. -/
def foldCarries (fuel sum : Nat) : Nat :=
  match fuel with
  | 0 => sum
  | k + 1 => if sum ≤ 0xFFFF then sum else foldCarries k (sum % 0x10000 + sum / 0x10000)

/-- `inet(s)` (R102): the complement of the folded sum. -/
def inet (s : Bytes) : Half := ~~~ BitVec.ofNat 16 (foldCarries (wordSum s) (wordSum s))

/-- `pseudo(src, dst, proto, length)` (R103). -/
def pseudo (src dst : Word) (proto length : Nat) : Bytes :=
  be 4 src.toNat ++ be 4 dst.toNat ++ [0] ++ be 1 proto ++ be 2 length

/-- `inetph(seg, src, dst, proto, length)` (R104). -/
def inetph (segment : Bytes) (src dst : Word) (proto length : Nat) : Half :=
  inet (pseudo src dst proto length ++ segment)

/-- CRC32 (R105). -/
def execCrc32 (s : State) : Result := finish s do
  let n ← checkIlen s
  let d ← readIbuf s 0 n
  pure (s.setCsum (crc32 s.crcrom d))

/-- INET (R106). -/
def execInet (s : State) : Result := finish s do
  let n ← checkIlen s
  let d ← readIbuf s 0 n
  pure (s.setCsum ((inet d).setWidth 32))

/-- INETPH (R107). -/
def execInetph (s : State) : Result := finish s do
  let n ← checkIlen s
  let d ← readIbuf s 0 n
  pure (s.setCsum ((inetph d (s.freg 0) (s.freg 1) (s.field 8 2) (s.field 16 3)).setWidth 32))

end Sys2Proof.Machine
end

