-- ==== Sys2Proof/Machine/Ethernet.lean ====
section
/-! DEFINITION. The Ethernet II codec, family 0x1 (41_ethernet.md R120 to R126). -/

namespace Sys2Proof.Machine

/-- The EtherType emitted for selector F4 (R122; the first three values are R2's, the next two are open, log 5 and 15). -/
def etherType (sel : Word) : Half :=
  if sel = 0 then 0x0800
  else if sel = 1 then 0x0806
  else if sel = 2 then 0x86DD
  else if sel = 3 then Config.etypeNdp
  else if sel = 4 then Config.etypeIcmp
  else 0

/-- Zero-padding of the payload to 46 bytes (R123). -/
def ethPad (p : Bytes) : Bytes := p ++ zeros (46 - p.length)

/-- The 14 header bytes of a frame (R121). -/
def ethHeader (s : State) : Bytes :=
  s.beF 2 0 ++ s.beF 4 1 ++ s.beF 2 2 ++ s.beF 4 3 ++ be 2 (etherType (s.freg 4)).toNat

/-- ETH.ENC (R123). -/
def execEthEnc (s : State) : Result := finish s do
  let n ← checkIlen s
  let p ← readIbuf s 0 (min n 1500)
  let body := ethHeader s ++ ethPad p
  let c := crc32 s.crcrom body
  let t ← emit s (body ++ be 4 c.toNat)
  pure (t.setFs [(5, (etherType (s.freg 4)).setWidth 32), (6, c)])

/-- ETH.DEC (R124). -/
def execEthDec (s : State) : Result := finish s do
  let n ← checkIlen s
  ensure (64 ≤ n) .tooShort
  let h ← readIbuf s 0 14
  let t ← readIbuf s (n - 4) 4
  pure (s.setFs ([(0, wordAt h 0 2), (1, wordAt h 2 6), (2, wordAt h 6 8), (3, wordAt h 8 12), (5, wordAt h 12 14),
    (6, wordAt t 0 4)] ++ dataSlice 14 (n - 18)))

/-- ETH.CHK (R125). -/
def execEthChk (s : State) : Result := finish s do
  let n ← checkIlen s
  ensure (64 ≤ n) .tooShort
  let w ← readIbuf s 0 n
  let c := crc32 s.crcrom (seg w 0 (n - 4))
  pure ((s.setCsum c).setResult (c.toNat == beVal (seg w (n - 4) n)))

end Sys2Proof.Machine
end

