-- ==== Sys2Proof/Machine/IcmpIp.lean ====
section
/-! DEFINITION. The ICMP, IPv4 and IPv6 codecs, families 0x4, 0x5 and 0x6 (43_icmp_ipv4_ipv6.md R160 to R175). -/

namespace Sys2Proof.Machine

/-- ICMP.ENC (R161). -/
def execIcmpEnc (s : State) : Result := finish s do
  let n ← checkIlen s
  let d ← readIbuf s 0 n
  let z := s.beF 1 0 ++ s.beF 1 1 ++ zeros 2 ++ s.beF 2 3 ++ s.beF 2 4 ++ d
  let c := inet z
  let t ← emit s (seg z 0 2 ++ be 2 c.toNat ++ seg z 4 (8 + n))
  pure (t.setFs ((2, c.setWidth 32) :: dataSlice 0 n))

/-- ICMP.DEC (R162). -/
def execIcmpDec (s : State) : Result := finish s do
  let n ← checkIlen s
  ensure (8 ≤ n) .tooShort
  let b ← readIbuf s 0 8
  pure (s.setFs ([(0, wordAt b 0 1), (1, wordAt b 1 2), (2, wordAt b 2 4), (3, wordAt b 4 6), (4, wordAt b 6 8)] ++
    dataSlice 8 (n - 8)))

/-- ICMP.VAL (R163): always true, by the source. -/
def execIcmpVal (s : State) : Result := finish s do
  pure (s.setResult true)

/-- ICMP.CHK (R164). -/
def execIcmpChk (s : State) : Result := finish s do
  let n ← checkIlen s
  ensure (8 ≤ n) .tooShort
  let p ← readIbuf s 0 n
  pure (s.setCheck (csumCheck inet p 2))

/-- `hl4(b0)`: the IPv4 header length in bytes (R166). -/
def hl4 (b0 : Byte) : Nat := max 20 (b0.toNat % 16 * 4)

/-- The IPv4 data length on decode (R167). -/
def ip4DataLength (hl tl n : Nat) : Nat := if hl ≤ tl ∧ tl ≤ n then tl - hl else n - hl

/-- IP4.ENC (R168). -/
def execIp4Enc (s : State) : Result := finish s do
  let n ← checkIlen s
  let o := (s.freg 10).toNat
  checkOpt o n
  ensure (20 + n ≤ s.bufBytes) .badArg
  let opts ← readIbuf s 0 o
  let data ← readIbuf s o (n - o)
  let z := s.beF 1 0 ++ s.beF 1 1 ++ s.beF 2 2 ++ s.beF 2 3 ++ s.beF 2 4 ++ s.beF 1 5 ++ s.beF 1 6 ++ zeros 2 ++
    s.beF 4 8 ++ s.beF 4 9 ++ opts
  let c := inet z
  let t ← emit s (seg z 0 10 ++ be 2 c.toNat ++ seg z 12 (20 + o) ++ data)
  pure (t.setFs ([(7, c.setWidth 32), (11, 0)] ++ dataSlice o (n - o)))

/-- IP4.DEC (R169). -/
def execIp4Dec (s : State) : Result := finish s do
  let n ← checkIlen s
  ensure (20 ≤ n) .tooShort
  let h ← readIbuf s 0 20
  let hl := hl4 (byteAt h 0)
  ensure (hl ≤ n) .tooShort
  pure (s.setFs ([(0, wordAt h 0 1), (1, wordAt h 1 2), (2, wordAt h 2 4), (3, wordAt h 4 6), (4, wordAt h 6 8),
    (5, wordAt h 8 9), (6, wordAt h 9 10), (7, wordAt h 10 12), (8, wordAt h 12 16), (9, wordAt h 16 20)] ++
    optionsSlice (hl - 20) 20 ++ dataSlice hl (ip4DataLength hl (beVal (seg h 2 4)) n)))

/-- IP4.VAL (R170): version nibble 4 and total length at least 20. -/
def execIp4Val (s : State) : Result := finish s do
  pure (s.setResult ((s.freg 0).extractLsb' 4 4 == 4 && decide (20 ≤ s.field 16 2)))

/-- IP4.CHK (R171): the header's bytes only. -/
def execIp4Chk (s : State) : Result := finish s do
  let n ← checkIlen s
  ensure (20 ≤ n) .tooShort
  let b ← readIbuf s 0 1
  let hl := hl4 (byteAt b 0)
  ensure (hl ≤ n) .tooShort
  let h ← readIbuf s 0 hl
  pure (s.setCheck (csumCheck inet h 10))

/-- IP6.ENC (R173). -/
def execIp6Enc (s : State) : Result := finish s do
  let n ← checkIlen s
  let d ← readIbuf s 0 n
  let t ← emit s (s.beF 4 0 ++ s.beF 2 1 ++ s.beF 1 2 ++ s.beF 1 3 ++ s.beF 4 4 ++ s.beF 4 5 ++ s.beF 4 6 ++ s.beF 4 7 ++
    s.beF 4 8 ++ s.beF 4 9 ++ s.beF 4 10 ++ s.beF 4 11 ++ d)
  pure (t.setFs (dataSlice 0 n))

/-- IP6.DEC (R174). -/
def execIp6Dec (s : State) : Result := finish s do
  let n ← checkIlen s
  ensure (40 ≤ n) .tooShort
  let h ← readIbuf s 0 40
  pure (s.setFs ([(0, wordAt h 0 4), (1, wordAt h 4 6), (2, wordAt h 6 7), (3, wordAt h 7 8), (4, wordAt h 8 12),
    (5, wordAt h 12 16), (6, wordAt h 16 20), (7, wordAt h 20 24), (8, wordAt h 24 28), (9, wordAt h 28 32),
    (10, wordAt h 32 36), (11, wordAt h 36 40)] ++ dataSlice 40 (n - 40)))

/-- IP6.VAL (R175): version 6. -/
def execIp6Val (s : State) : Result := finish s do
  pure (s.setResult ((s.freg 0).extractLsb' 28 4 == 6))

end Sys2Proof.Machine
end

