-- ==== Sys2Proof/Machine/TcpUdp.lean ====
section
/-! DEFINITION. The TCP and UDP codecs, families 0x7 and 0x8 (44_tcp_udp.md R190 to R200). The pseudo-header addresses are F8
(source) and F9 (destination). -/

namespace Sys2Proof.Machine

/-- `hlt(b12)`: the TCP header length in bytes (R191). -/
def hlt (b12 : Byte) : Nat := max 20 (b12.toNat / 16 * 4)

/-- The data-offset+flags word of TCP.ENC: offset 5 + o/4 in bits 15:12, the 9 flag bits of F4 (R192). -/
def tcpOffsetFlags (o : Nat) (f4 : Word) : Nat := (5 + o / 4) * 2 ^ 12 ||| f4.toNat % 2 ^ 9

/-- TCP.ENC (R192). -/
def execTcpEnc (s : State) : Result := finish s do
  let n ← checkIlen s
  let o := (s.freg 10).toNat
  checkOpt o n
  ensure (20 + n ≤ s.bufBytes) .badArg
  let opts ← readIbuf s 0 o
  let data ← readIbuf s o (n - o)
  let w := tcpOffsetFlags o (s.freg 4)
  let z := s.beF 2 0 ++ s.beF 2 1 ++ s.beF 4 2 ++ s.beF 4 3 ++ be 2 w ++ s.beF 2 5 ++ zeros 2 ++ s.beF 2 7 ++ opts ++ data
  let c := inetph z (s.freg 8) (s.freg 9) 6 (20 + n)
  let t ← emit s (seg z 0 16 ++ be 2 c.toNat ++ seg z 18 (20 + n))
  pure (t.setFs ([(4, BitVec.ofNat 32 w), (6, c.setWidth 32), (11, 0)] ++ dataSlice o (n - o)))

/-- TCP.DEC (R193). -/
def execTcpDec (s : State) : Result := finish s do
  let n ← checkIlen s
  ensure (20 ≤ n) .tooShort
  let h ← readIbuf s 0 20
  let hl := hlt (byteAt h 12)
  ensure (hl ≤ n) .tooShort
  pure (s.setFs ([(0, wordAt h 0 2), (1, wordAt h 2 4), (2, wordAt h 4 8), (3, wordAt h 8 12), (4, wordAt h 12 14),
    (5, wordAt h 14 16), (6, wordAt h 16 18), (7, wordAt h 18 20)] ++ optionsSlice (hl - 20) 20 ++ dataSlice hl (n - hl)))

/-- TCP.VAL (R194): both ports nonzero. -/
def execTcpVal (s : State) : Result := finish s do
  pure (s.setResult (s.field 16 0 != 0 && s.field 16 1 != 0))

/-- TCP.CHK (R195). -/
def execTcpChk (s : State) : Result := finish s do
  let n ← checkIlen s
  ensure (20 ≤ n) .tooShort
  let b ← readIbuf s 12 1
  let hl := hlt (byteAt b 0)
  ensure (hl ≤ n) .tooShort
  let p ← readIbuf s 0 n
  pure (s.setCheck (csumCheck (fun z => inetph z (s.freg 8) (s.freg 9) 6 n) p 16))

/-- UDP.ENC (R197). -/
def execUdpEnc (s : State) : Result := finish s do
  let n ← checkIlen s
  ensure (8 + n ≤ s.bufBytes) .badArg
  let d ← readIbuf s 0 n
  let z := s.beF 2 0 ++ s.beF 2 1 ++ be 2 (8 + n) ++ zeros 2 ++ d
  let c := inetph z (s.freg 8) (s.freg 9) 17 (8 + n)
  let t ← emit s (seg z 0 6 ++ be 2 c.toNat ++ seg z 8 (8 + n))
  pure (t.setFs ([(2, BitVec.ofNat 32 (8 + n)), (3, c.setWidth 32)] ++ dataSlice 0 n))

/-- UDP.DEC (R198). -/
def execUdpDec (s : State) : Result := finish s do
  let n ← checkIlen s
  ensure (8 ≤ n) .tooShort
  let h ← readIbuf s 0 8
  pure (s.setFs ([(0, wordAt h 0 2), (1, wordAt h 2 4), (2, wordAt h 4 6), (3, wordAt h 6 8)] ++ dataSlice 8 (n - 8)))

/-- UDP.VAL (R199): both ports nonzero and length at least 8. -/
def execUdpVal (s : State) : Result := finish s do
  pure (s.setResult (s.field 16 0 != 0 && s.field 16 1 != 0 && decide (8 ≤ s.field 16 2)))

/-- UDP.CHK (R200). -/
def execUdpChk (s : State) : Result := finish s do
  let n ← checkIlen s
  ensure (8 ≤ n) .tooShort
  let p ← readIbuf s 0 n
  pure (s.setCheck (csumCheck (fun z => inetph z (s.freg 8) (s.freg 9) 17 n) p 6))

end Sys2Proof.Machine
end

