-- ==== Sys2Proof/Machine/TlsDns.lean ====
section
/-! DEFINITION. The TLS record header and DNS header codecs, families 0x9 and 0xA (45_tls_dns.md R210 to R217). -/

namespace Sys2Proof.Machine

/-- TLS.ENC (R211): the version and the length are the encoder's own. -/
def execTlsEnc (s : State) : Result := finish s do
  let n ← checkIlen s
  ensure (5 + n ≤ s.bufBytes) .badArg
  let d ← readIbuf s 0 n
  let t ← emit s (s.beF 1 0 ++ [0x03, 0x03] ++ be 2 n ++ d)
  pure (t.setFs ([(1, 0x0303), (2, BitVec.ofNat 32 n)] ++ dataSlice 0 n))

/-- TLS.DEC (R212). -/
def execTlsDec (s : State) : Result := finish s do
  let n ← checkIlen s
  ensure (5 ≤ n) .tooShort
  let h ← readIbuf s 0 5
  pure (s.setFs ([(0, wordAt h 0 1), (1, wordAt h 1 3), (2, wordAt h 3 5)] ++ dataSlice 5 (n - 5)))

/-- TLS.VAL (R213): version 0x0303 and length equal to the payload's, F13 compared in all 32 bits. -/
def execTlsVal (s : State) : Result := finish s do
  pure (s.setResult (s.field 16 1 == 0x0303 && s.field 16 2 == (s.freg 13).toNat))

/-- DNS.ENC (R215). -/
def execDnsEnc (s : State) : Result := finish s do
  let n ← checkIlen s
  ensure (12 + n ≤ s.bufBytes) .badArg
  let d ← readIbuf s 0 n
  let t ← emit s (s.beF 2 0 ++ s.beF 2 1 ++ s.beF 2 2 ++ s.beF 2 3 ++ s.beF 2 4 ++ s.beF 2 5 ++ d)
  pure (t.setFs (dataSlice 0 n))

/-- DNS.DEC (R216). -/
def execDnsDec (s : State) : Result := finish s do
  let n ← checkIlen s
  ensure (12 ≤ n) .tooShort
  let h ← readIbuf s 0 12
  pure (s.setFs ([(0, wordAt h 0 2), (1, wordAt h 2 4), (2, wordAt h 4 6), (3, wordAt h 6 8), (4, wordAt h 8 10),
    (5, wordAt h 10 12)] ++ dataSlice 12 (n - 12)))

/-- DNS.VAL (R217): at least one count nonzero. -/
def execDnsVal (s : State) : Result := finish s do
  pure (s.setResult (s.field 16 2 != 0 || s.field 16 3 != 0 || s.field 16 4 != 0 || s.field 16 5 != 0))

end Sys2Proof.Machine
end

