-- ==== Sys2Proof/Machine/Dispatch.lean ====
section
/-! DEFINITION. The dispatch of a decoded command to its meaning: one arm per constructor of Instr (30_encoding.md R83). -/

namespace Sys2Proof.Machine

/-- The engine's run of command `i` on state `s` (20_memory.md R61). -/
def exec (i : Instr) (s : State) : Host.Outcome State Fault Refusal :=
  match i with
  | .crc32 => Sys2Proof.Machine.execCrc32 s
  | .inet => Sys2Proof.Machine.execInet s
  | .inetph => Sys2Proof.Machine.execInetph s
  | .ethEnc => Sys2Proof.Machine.execEthEnc s
  | .ethDec => Sys2Proof.Machine.execEthDec s
  | .ethChk => Sys2Proof.Machine.execEthChk s
  | .arpEnc => Sys2Proof.Machine.execArpEnc s
  | .arpDec => Sys2Proof.Machine.execArpDec s
  | .arpVal => Sys2Proof.Machine.execArpVal s
  | .ndpEnc => Sys2Proof.Machine.execNdpEnc s
  | .ndpDec => Sys2Proof.Machine.execNdpDec s
  | .ndpVal => Sys2Proof.Machine.execNdpVal s
  | .icmpEnc => Sys2Proof.Machine.execIcmpEnc s
  | .icmpDec => Sys2Proof.Machine.execIcmpDec s
  | .icmpVal => Sys2Proof.Machine.execIcmpVal s
  | .icmpChk => Sys2Proof.Machine.execIcmpChk s
  | .ip4Enc => Sys2Proof.Machine.execIp4Enc s
  | .ip4Dec => Sys2Proof.Machine.execIp4Dec s
  | .ip4Val => Sys2Proof.Machine.execIp4Val s
  | .ip4Chk => Sys2Proof.Machine.execIp4Chk s
  | .ip6Enc => Sys2Proof.Machine.execIp6Enc s
  | .ip6Dec => Sys2Proof.Machine.execIp6Dec s
  | .ip6Val => Sys2Proof.Machine.execIp6Val s
  | .tcpEnc => Sys2Proof.Machine.execTcpEnc s
  | .tcpDec => Sys2Proof.Machine.execTcpDec s
  | .tcpVal => Sys2Proof.Machine.execTcpVal s
  | .tcpChk => Sys2Proof.Machine.execTcpChk s
  | .udpEnc => Sys2Proof.Machine.execUdpEnc s
  | .udpDec => Sys2Proof.Machine.execUdpDec s
  | .udpVal => Sys2Proof.Machine.execUdpVal s
  | .udpChk => Sys2Proof.Machine.execUdpChk s
  | .tlsEnc => Sys2Proof.Machine.execTlsEnc s
  | .tlsDec => Sys2Proof.Machine.execTlsDec s
  | .tlsVal => Sys2Proof.Machine.execTlsVal s
  | .dnsEnc => Sys2Proof.Machine.execDnsEnc s
  | .dnsDec => Sys2Proof.Machine.execDnsDec s
  | .dnsVal => Sys2Proof.Machine.execDnsVal s
  | .xfer => Sys2Proof.Machine.execXfer s

end Sys2Proof.Machine
end

