-- ==== Sys2Proof/Machine/Step.lean ====
section
/-! DEFINITION. One step of the block with its surroundings: the next turn of the agenda, or the engine's step (20_memory.md R50,
R61; log 1, 2). -/

namespace Sys2Proof.Machine

/-- The engine's step: enabled while STATUS.BUSY = 1 and no engine fault has stopped it (R50, R61, 60_exceptions.md R244). It
decodes CMD, and runs the command or completes with BADCMD (30_encoding.md R83). Otherwise the block idles (R254). -/
def engineStep (s : State) : Host.Outcome State Fault Refusal :=
  if s.busy && s.stuckAt.isNone then
    match decode s.cmd with
    | .ok i => exec i s
    | .error _ => .next (s.complete .badCmd)
  else .next s

/-- One turn at a block with base address `base`, in the state whose agenda no longer holds the turn. -/
def takeTurn (base : Nat) (t : Turn) (s : State) : Host.Outcome State Fault Refusal :=
  match t with
  | .access off w op => hostAccess off w op s
  | .bus address w op => busAccess base address w op s
  | .wait => .next (hostWait s)
  | .engine => engineStep s
  | .reset => .next s.blockReset

/-- One step of a block with base address `base`. With no turn left the engine takes its step, if it has one (weak fairness, R61,
R263; log 2). -/
def stepAt (base : Nat) (s : State) : Host.Outcome State Fault Refusal :=
  match s.agenda with
  | [] => engineStep s
  | t :: rest => takeTurn base t { s with agenda := rest }

/-- One step of the block at CODEC_BASE (00_scope.md R5). -/
def step (s : State) : Host.Outcome State Fault Refusal := stepAt Config.codecBase s

/-- The state in which the host has written command word `w` to CMD (20_memory.md R58) and has no further turn, so that the next
step is the engine's step of that command. CMD is where the engine fetches (R65; log 3). -/
def State.withFetchWord (s : State) (nbits w : Nat) : State :=
  { s.startCommand (BitVec.ofNat 32 (w % 2 ^ nbits)) with stuckAt := none, agenda := [] }

end Sys2Proof.Machine
end

