-- ==== Sys2Proof/Machine/HostProgram.lean ====
section
/-! DEFINITION. The host program notation of 30_encoding.md R87: each line's expansion into turns. -/

namespace Sys2Proof.Machine

/-- The registers a W or R line names (R87; an R line may also name the read-only ones). -/
inductive RegName where
  | cmd
  | status
  | result
  | csum
  | ilen
  | olen
  | bufsz
  | f (k : Fin 16)
deriving DecidableEq, Repr

/-- The offset of a register (20_memory.md R51). -/
def regOffset (r : RegName) : Nat :=
  match r with
  | .cmd => 0x000
  | .status => 0x004
  | .result => 0x008
  | .csum => 0x00C
  | .ilen => 0x010
  | .olen => 0x014
  | .bufsz => 0x018
  | .f k => 0x040 + 4 * k.val

/-- A line of a host program (R87). -/
inductive HostLine where
  /-- `W reg, v` -/
  | w (r : RegName) (v : Word)
  /-- `R reg` -/
  | r (r : RegName)
  /-- `WB i, b0 b1 …` -/
  | wb (i : Nat) (bs : Bytes)
  /-- `RB i, k` -/
  | rb (i k : Nat)
  /-- `WW i, v` -/
  | ww (i : Nat) (v : Word)
  /-- `WAIT` -/
  | wait
  /-- `RUN mnemonic` -/
  | run (c : Instr)
  /-- `SETMAC Fh, m0:…:m5` -/
  | setmac (h : Fin 15) (m0 m1 m2 m3 m4 m5 : Byte)
deriving DecidableEq, Repr

/-- A 32-bit register write (R87). -/
def writeTurn (r : RegName) (v : Word) : Turn := .access (regOffset r) .word (.write v)

/-- The turns of a line (R87). -/
def expandLine (l : HostLine) : List Turn :=
  match l with
  | .w r v => [writeTurn r v]
  | .r r => [.access (regOffset r) .word .read]
  | .wb i bs => bs.zipIdx.map fun p => .access (0x10000 + i + p.2) .byte (.write (p.1.setWidth 32))
  | .rb i k => (List.range k).map fun j => .access (0x20000 + i + j) .byte .read
  | .ww i v => [.access (0x10000 + i) .word (.write v)]
  | .wait => [.wait]
  | .run c => [writeTurn .cmd (encode c), .wait]
  | .setmac h m0 m1 m2 m3 m4 m5 =>
    [writeTurn (.f h.castSucc) (0#16 ++ m0 ++ m1), writeTurn (.f h.succ) (m2 ++ m3 ++ m4 ++ m5)]

/-- The turns of a host program. -/
def expandProgram (p : List HostLine) : List Turn := p.flatMap expandLine

end Sys2Proof.Machine
end

