-- ==== Sys2Proof/Machine/System.lean ====
section
/-! DEFINITION. Several blocks: the product of single blocks with interleaved steps (60_exceptions.md R252). -/

namespace Sys2Proof.Machine

/-- Several independent blocks, each with its own registers, buffers and FAULT (R252). Block `k` is at the base address
`Config.blockBase k`, distinct from every other's (log 22). DESIGN CHOICE (log 12): the blocks draw their free values from one
function, each at its own counter `draws`. -/
abbrev System := List State

/-- Block `k` takes its next step, at its own base address (R252). DESIGN CHOICE (log 24): a fault or a refusal of the block that
steps is the outcome of the product's step, and a number that names no block changes nothing. -/
def systemStep (blocks : System) (k : Nat) : Host.Outcome System Fault Refusal :=
  match blocks[k]? with
  | none => .next blocks
  | some s =>
    match stepAt (Config.blockBase k) s with
    | .next t => .next (blocks.set k t)
    | .fault r => .fault r
    | .refused r => .refused r

end Sys2Proof.Machine
end

