-- ==== Sys2Proof/Safety.lean ====
section
/-! DEFINITION. The terms the claims use: the invariant of the block, the end of a run and its observation
(70_reset_and_hazards.md R264), what a command's inputs are, and what a command leaves changed and unchanged. -/

namespace Sys2Proof.Machine

/-- What holds of the block from reset on. -/
structure Inv (s : State) : Prop where
  /-- BUF_BYTES satisfies its constraint (00_scope.md R1). -/
  bufsz_legal : Config.legalBufBytes s.bufBytes
  /-- CRCROM holds T[0..255] (10_state.md R39). -/
  rom : s.crcrom = crcTable
  /-- IBUF is in canonical form, inside the buffer (R36). -/
  ibuf_wf : s.ibuf.wf
  ibuf_within : s.ibuf.within s.bufBytes
  /-- OBUF is in canonical form, inside the buffer (R37). -/
  obuf_wf : s.obuf.wf
  obuf_within : s.obuf.within s.bufBytes
  /-- OLEN is at most BUF_BYTES (46_control.md R230). -/
  olen_le : s.olen.toNat ≤ s.bufBytes
  /-- Every OBUF byte below OLEN is written (R230, 60_exceptions.md R244). -/
  obuf_written : ∀ a, a < s.olen.toNat → s.obuf.read a ≠ none
  /-- (BUSY, DONE) = (1, 1) never occurs (10_state.md R22). -/
  not_busy_done : ¬ (s.busy = true ∧ s.done = true)
  /-- ERR is OK until a command has completed (R25). -/
  err_ok : s.done = false → s.err = .ok
  /-- INVALIDFORMAT is never produced (R27). -/
  err_legal : s.err ≠ .invalidFormat
  /-- A running command keeps the busy window open (70_reset_and_hazards.md R262). -/
  busy_window : s.busy = true → s.window = true
  /-- A stopped engine leaves STATUS busy and FAULT set (R244). -/
  stuck_busy : s.stuckAt ≠ none → s.busy = true ∧ s.fault = true
  /-- (BUSY, DONE) = (0, 0) only between reset and the first command (R22), when nothing has been computed yet. -/
  idle_fresh : s.busy = false → s.done = false →
    s.cmd = 0 ∧ s.result = false ∧ s.csum = 0 ∧ s.olen = 0 ∧ s.obuf = [] ∧ s.window = false

/-- FAULT is not set: the premise every claim about a run takes (R42). -/
abbrev State.good (s : State) : Prop := s.fault = false

/-- The turns that are the host program's accesses (20_memory.md R50). -/
def Turn.isHostAccess (t : Turn) : Bool :=
  match t with
  | .access _ _ _ | .bus _ _ _ | .wait => true
  | .engine | .reset => false

/-- The end of a run (R264): the host has read STATUS with BUSY = 0 and DONE = 1 after its last CMD write (so the busy window is
closed), and its program has no further access. DESIGN CHOICE (log 25), where R264 says nothing of a reset: a turn that is left and
is no host access, a reset or a turn of the idle engine, does not keep the run from its end; and DONE = 1 is asked of the end's own
state, so a reset taken after that read and before a later host access undoes it, and the run has no end until a later command has
completed and been polled. -/
abbrev State.ended (s : State) : Prop :=
  (∀ t ∈ s.agenda, t.isHostAccess = false) ∧ s.busy = false ∧ s.done = true ∧ s.window = false

/-- What a run shows at its end (R264). CMD is no output. -/
structure Observation where
  status : Word
  result : Word
  csum : Word
  ilen : Word
  olen : Word
  f : Vector Word 16
  ibuf : Memory
  obuf : Memory
  fault : Bool
deriving DecidableEq, Repr

/-- The observation of a state (R264). -/
def State.observe (s : State) : Observation where
  status := s.statusWord
  result := s.resultWord
  csum := s.csum
  ilen := s.ilen.setWidth 32
  olen := s.olen.setWidth 32
  f := s.f
  ibuf := s.ibuf
  obuf := s.obuf
  fault := s.fault

/-- n, the number of input bytes (30_encoding.md R90). -/
abbrev State.n (s : State) : Nat := s.ilen.toNat

/-- A reserved offset of the address map: one of R51's reserved ranges, or a buffer index at or above BUF_BYTES (20_memory.md R51,
R54). -/
abbrev ReservedOffset (s : State) (off : Nat) : Prop :=
  (0x1C ≤ off ∧ off < 0x40) ∨ (0x80 ≤ off ∧ off < 0x10000) ∨ (0x10000 + s.bufBytes ≤ off ∧ off < 0x20000) ∨
  (0x20000 + s.bufBytes ≤ off ∧ off < 0x30000) ∨ (0x30000 ≤ off ∧ off < 0x40000)

/-- The bytes `d` are written in IBUF from index `a`. -/
abbrev IbufHolds (s : State) (a : Nat) (d : Bytes) : Prop := ∀ i, i < d.length → s.ibuf.read (a + i) = d[i]?

/-- The input of a command is `d`: n = len(d) fits the buffer and IBUF[0 ..< n] = d. -/
abbrev InputIs (s : State) (d : Bytes) : Prop := s.n = d.length ∧ s.n ≤ s.bufBytes ∧ IbufHolds s 0 d

/-- The input of a command fits the buffer and begins with the written bytes `h`; nothing is said of the bytes after them. -/
abbrev HeaderIs (s : State) (h : Bytes) : Prop := h.length ≤ s.n ∧ s.n ≤ s.bufBytes ∧ IbufHolds s 0 h

/-- Index `k` is the first unwritten byte of IBUF[a ..< b]. -/
abbrev FirstUnwritten (s : State) (a b k : Nat) : Prop :=
  a ≤ k ∧ k < b ∧ s.ibuf.read k = none ∧ ∀ j, j < k → a ≤ j → s.ibuf.read j ≠ none

/-- A decode's slice (length in F`len`, offset in F`off`) names the bytes the encode's slice named (95_test_vectors.md P1): the same
length, and the same IBUF bytes at the new offset. `t` is the state after the encode, `v` the state after the decode. -/
abbrev SliceBack (len off : Fin 16) (t v : State) : Prop :=
  v.freg len = t.freg len ∧
  ∀ k, k < (t.freg len).toNat → v.ibuf.read ((v.freg off).toNat + k) = t.ibuf.read ((t.freg off).toNat + k)

/-- What a command writes besides STATUS: field registers, OBUF and OLEN, CSUM, RESULT. -/
structure Effects where
  regs : List (Fin 16 × Word) := []
  out : Option Bytes := none
  csum : Option Word := none
  result : Option Bool := none

/-- State `t` is `s` after a command that completed with `code`, wrote exactly `e`, and left everything else as it was
(30_encoding.md R89): every other field register, every OBUF byte outside the output, IBUF and ILEN, and what only the host or
reset changes. -/
structure Leaves (code : Code) (e : Effects) (s t : State) : Prop where
  busy : t.busy = false
  done : t.done = true
  err : t.err = code
  freg : ∀ k, t.freg k = (e.regs.lookup k).getD (s.freg k)
  csum : t.csum = e.csum.getD s.csum
  result : t.result = e.result.getD s.result
  olen : t.olen = (e.out.map fun o => BitVec.ofNat 16 o.length).getD s.olen
  obuf : ∀ a, t.obuf.read a = if a < (e.out.getD []).length then (e.out.getD [])[a]? else s.obuf.read a
  ibuf : ∀ a, t.ibuf.read a = s.ibuf.read a
  ilen : t.ilen = s.ilen
  cmd : t.cmd = s.cmd
  bufsz : t.bufsz = s.bufsz
  crcrom : t.crcrom = s.crcrom
  fault : t.fault = s.fault
  stuckAt : t.stuckAt = s.stuckAt
  window : t.window = s.window
  readData : t.readData = s.readData
  draws : t.draws = s.draws
  agenda : t.agenda = s.agenda

/-- Command `i` completes with OK on `s` and writes exactly `e`. -/
def Completes (i : Instr) (s : State) (e : Effects) : Prop := ∃ t, exec i s = .next t ∧ Leaves .ok e s t

/-- Command `i` completes on `s` with error `code` and writes nothing but STATUS (60_exceptions.md R241). -/
def Fails (i : Instr) (s : State) (code : Code) : Prop := ∃ t, exec i s = .next t ∧ Leaves code {} s t

/-- Command `i` meets the unwritten byte IBUF[k]: FAULT is set, nothing is committed, the command never completes (R244). -/
def EngineFaultsAt (i : Instr) (s : State) (k : Nat) : Prop :=
  exec i s = .next { s with fault := true, stuckAt := some (.ibuf k) }

/-- Command `i` on `s` stops at the first unwritten byte of IBUF[a ..< b] (10_state.md R38). -/
def FaultsWithin (i : Instr) (s : State) (a b : Nat) : Prop := ∀ k, FirstUnwritten s a b k → EngineFaultsAt i s k

/-- The reserved words, as 30_encoding.md R84 lists them. -/
abbrev ReservedWord (w : Nat) : Prop :=
  (0x03 ≤ w ∧ w ≤ 0x0F) ∨ w = 0x12 ∨ (0x14 ≤ w ∧ w ≤ 0x1F) ∨ (0x23 ≤ w ∧ w ≤ 0x2F) ∨ (0x33 ≤ w ∧ w ≤ 0x3F) ∨
  (0x44 ≤ w ∧ w ≤ 0x4F) ∨ (0x54 ≤ w ∧ w ≤ 0x5F) ∨ (0x63 ≤ w ∧ w ≤ 0x6F) ∨ (0x74 ≤ w ∧ w ≤ 0x7F) ∨
  (0x84 ≤ w ∧ w ≤ 0x8F) ∨ (0x93 ≤ w ∧ w ≤ 0x9F) ∨ (0xA3 ≤ w ∧ w ≤ 0xAF) ∨ (0xB0 ≤ w ∧ w ≤ 0xEF) ∨
  (0xF1 ≤ w ∧ w ≤ 0xFF) ∨ 0x100 ≤ w

/-- The ENC commands (R82). -/
def encCommands : List Instr := [.ethEnc, .arpEnc, .ndpEnc, .icmpEnc, .ip4Enc, .ip6Enc, .tcpEnc, .udpEnc, .tlsEnc, .dnsEnc]

/-- The DEC commands (R82). -/
def decCommands : List Instr := [.ethDec, .arpDec, .ndpDec, .icmpDec, .ip4Dec, .ip6Dec, .tcpDec, .udpDec, .tlsDec, .dnsDec]

/-- The VAL commands (R82). -/
def valCommands : List Instr := [.arpVal, .ndpVal, .icmpVal, .ip4Val, .ip6Val, .tcpVal, .udpVal, .tlsVal, .dnsVal]

/-- The CHK commands (R82). -/
def chkCommands : List Instr := [.ethChk, .icmpChk, .ip4Chk, .tcpChk, .udpChk]

/-- The checksum commands (R82). -/
def sumCommands : List Instr := [.crc32, .inet, .inetph]

/-- The CRC-32 of a sequence computed bit by bit, without a table: each byte is XORed into the low bits and 8 turns of the loop of
40_checksum_engine.md R100 follow. The claims compare the table-driven function with it. -/
def crcBitSerial (s : Bytes) : Word :=
  s.foldl (fun r b => crcShift^[8] (r ^^^ b.setWidth 32)) 0xFFFFFFFF#32 ^^^ 0xFFFFFFFF#32

end Sys2Proof.Machine
end

