-- ==== Sys2Proof/Certificates/Slice0/Obligations.lean ====
section
/-! DEFINITION. The statements for the provers, in the order of spec/. A command's own statement gives its encoding, each way
its rule lets it end, and, by `Leaves`, everything it writes and everything it leaves unchanged. Where a command meets an unwritten
byte, the byte recorded beside FAULT is the model-only information that 60_exceptions.md R244 allows (log 8). -/

open Sys2Proof Sys2Proof.Machine

/-! ### Encoding (30_encoding.md) -/

/-- Decode and encode agree in both directions, for every command and every 32-bit word (R80 to R83). -/
def Obligations.DecodeGivesACommandExactlyAtItsWord : Prop :=
  ∀ (w : Word) (i : Instr), decode w = .ok i ↔ w = encode i

/-- R83, R84: a word names a command, or is one of the reserved words and completes with BADCMD, changing nothing but STATUS. -/
def Obligations.ReservedWordsCompleteWithBadCmd : Prop :=
  (∀ w : Word, (∃ i, decode w = .ok i) ↔ ¬ ReservedWord w.toNat) ∧
  ∀ s : State, s.busy = true → s.stuckAt = none → ReservedWord s.cmd.toNat →
    ∃ t, engineStep s = .next t ∧ Leaves .badCmd {} s t

/-- A few words of the opcode map, one of each family (R83). -/
def Obligations.SampleWordsDecodeToTheirCommands : Prop :=
  decode 0x00000002 = .ok .inetph ∧ decode 0x00000013 = .ok .ethChk ∧ decode 0x00000021 = .ok .arpDec ∧
  decode 0x00000032 = .ok .ndpVal ∧ decode 0x00000043 = .ok .icmpChk ∧ decode 0x00000051 = .ok .ip4Dec ∧
  decode 0x00000062 = .ok .ip6Val ∧ decode 0x00000070 = .ok .tcpEnc ∧ decode 0x00000081 = .ok .udpDec ∧
  decode 0x00000092 = .ok .tlsVal ∧ decode 0x000000A0 = .ok .dnsEnc ∧ decode 0x000000F0 = .ok .xfer

/-! ### The step, the invariant, reset (10_state.md, 20_memory.md, 60_exceptions.md, 70_reset_and_hazards.md) -/

/-- The engine's step runs the command CMD decodes to, when the agenda is empty or gives the engine its turn; a block with nothing
running idles; in every state such a step is the engine's step. That an empty agenda gives the engine its step is the model's choice
(log 2). -/
def Obligations.StepRunsTheDecodedCommand : Prop :=
  (∀ (s : State) (i : Instr), s.busy = true → s.stuckAt = none → decode s.cmd = .ok i →
    (s.agenda = [] → step s = exec i s) ∧
    ∀ rest, s.agenda = .engine :: rest → step s = exec i { s with agenda := rest }) ∧
  (∀ s : State, s.busy = false →
    (s.agenda = [] → step s = .next s) ∧ ∀ rest, s.agenda = .engine :: rest → step s = .next { s with agenda := rest }) ∧
  ∀ s : State, (s.agenda = [] → step s = engineStep s) ∧
    ∀ rest, s.agenda = .engine :: rest → step s = engineStep { s with agenda := rest }

/-- Every step keeps the invariant: BUF_BYTES and CRCROM stay, the buffers stay canonical and inside BUF_BYTES, every OBUF byte below
OLEN is written, (BUSY, DONE) = (1, 1) never occurs, ERR stays a code R27 produces, a stopped engine is busy with FAULT set. -/
def Obligations.StepKeepsTheInvariant : Prop :=
  ∀ s t : State, Inv s → step s = .next t → Inv t

/-- The invariant holds at reset. -/
def Obligations.ResetMeetsTheInvariant : Prop := Inv State.reset

/-- R260: the state after reset, at the beginning and after a reset turn, whatever ran before, a stopped engine included; the block
then accepts a command. -/
def Obligations.ResetLeavesTheResetState : Prop :=
  (State.reset.cmd = 0 ∧ State.reset.statusWord = 0 ∧ State.reset.resultWord = 0 ∧ State.reset.csum = 0 ∧
    State.reset.ilen = 0 ∧ State.reset.olen = 0 ∧ (∀ k, State.reset.freg k = 0) ∧
    (∀ a, State.reset.ibuf.read a = none) ∧ (∀ a, State.reset.obuf.read a = none) ∧ State.reset.crcrom = crcTable ∧
    State.reset.fault = false) ∧
  (∀ (s : State) (rest : List Turn), s.agenda = .reset :: rest →
    ∃ t, step s = .next t ∧ t.cmd = 0 ∧ t.statusWord = 0 ∧ t.resultWord = 0 ∧ t.csum = 0 ∧ t.ilen = 0 ∧ t.olen = 0 ∧
      t.bufsz = s.bufsz ∧ (∀ k, t.freg k = 0) ∧ (∀ a, t.ibuf.read a = none) ∧ (∀ a, t.obuf.read a = none) ∧
      t.crcrom = s.crcrom ∧ t.fault = s.fault ∧ t.agenda = rest) ∧
  ∀ (s : State) (v : Word) (rest : List Turn), s.agenda = .reset :: .access 0x0 .word (.write v) :: rest →
    ∃ t, Host.Core.run core 2 s = .next t ∧ t.cmd = v ∧ t.busy = true ∧ t.done = false ∧ t.agenda = rest

/-- R42: no step clears FAULT. -/
def Obligations.FaultIsNeverCleared : Prop :=
  ∀ s t : State, step s = .next t → s.fault = true → t.fault = true

/-- R23: BUSY rises only by the write of a command word to CMD, and falls only by the engine's completing step or by reset. -/
def Obligations.BusyChangesOnlyByStartCompletionOrReset : Prop :=
  ∀ s t : State, step s = .next t →
    (s.busy = false → t.busy = true → ∃ v rest, t.cmd = v ∧
      (s.agenda = .access 0 .word (.write v) :: rest ∨ s.agenda = .bus Config.codecBase .word (.write v) :: rest)) ∧
    (s.busy = true → t.busy = false →
      (t.done = true ∧ (s.agenda = [] ∨ ∃ rest, s.agenda = .engine :: rest)) ∨ ∃ rest, s.agenda = .reset :: rest)

/-- R244: an engine stopped by an unwritten byte never completes its command; only reset ends it. The field `stuckAt` is the model's
(log 8). -/
def Obligations.StoppedEngineStaysBusyUntilReset : Prop :=
  ∀ (s t : State) (r : ByteRef), Inv s → s.stuckAt = some r → (∀ rest, s.agenda ≠ .reset :: rest) → step s = .next t →
    t.stuckAt = some r ∧ t.busy = true ∧ t.done = false ∧ t.fault = true

/-- R62, R87: WAIT returns after the engine's step of the command, with the busy window closed. That the engine's turn follows the
first poll is the model's choice (log 14). -/
def Obligations.WaitReturnsAfterTheCommand : Prop :=
  ∀ (s t : State) (rest : List Turn), s.agenda = .wait :: rest → s.busy = true →
    engineStep { s with agenda := .wait :: rest, readData := s.statusWord } = .next t → t.busy = false →
    Host.Core.run core 3 s = .next { t with agenda := rest, readData := t.statusWord, window := false }

/-- R240: no command stops the machine. It completes, or meets an unwritten byte and changes nothing but FAULT and the model's
record of the byte (log 8). -/
def Obligations.EveryCommandCompletesOrEngineFaults : Prop :=
  ∀ (i : Instr) (s : State), ∃ t, exec i s = .next t ∧
    ((t.busy = false ∧ t.done = true ∧ t.err ≠ .invalidFormat) ∨
      ∃ r, t = { s with fault := true, stuckAt := some r })

/-- R241: a command that completes with an error writes STATUS and nothing else. -/
def Obligations.ErrorCompletionWritesStatusAlone : Prop :=
  ∀ (i : Instr) (s t : State), s.busy = true → exec i s = .next t → t.busy = false → t.err ≠ .ok → Leaves t.err {} s t

/-- R89: RESULT only in VAL and CHK; CSUM only in the checksum commands and CHK; OBUF and OLEN only in ENC; ILEN and IBUF only
in XFER; field registers only in ENC and DEC. -/
def Obligations.EachOutputHasItsOwnCommands : Prop :=
  ∀ (i : Instr) (s t : State), exec i s = .next t →
    (t.result ≠ s.result → i ∈ valCommands ++ chkCommands) ∧
    (t.csum ≠ s.csum → i ∈ sumCommands ++ chkCommands) ∧
    (t.olen ≠ s.olen ∨ (∃ a, t.obuf.read a ≠ s.obuf.read a) → i ∈ encCommands) ∧
    (t.ilen ≠ s.ilen ∨ (∃ a, t.ibuf.read a ≠ s.ibuf.read a) → i = .xfer) ∧
    ((∃ k, t.freg k ≠ s.freg k) → i ∈ encCommands ++ decCommands)

/-- R252: several blocks are the product of single ones, at distinct base addresses. A step of the product is the step of the one
block `k` at its own base address, and leaves every other block as it was; a bus address names that block's byte at the offset from
its base, as it does in `step` from CODEC_BASE. That the blocks are numbered by rising base address is the model's choice (log 22). -/
def Obligations.BlocksShareNoState : Prop :=
  (∀ j k, j ≠ k → Config.blockBase j ≠ Config.blockBase k) ∧
  (∀ s, step s = stepAt (Config.blockBase 0) s) ∧
  ∀ (blocks : System) (k : Nat) (s : State), blocks[k]? = some s →
    (∀ t, stepAt (Config.blockBase k) s = .next t → ∃ blocks', systemStep blocks k = .next blocks' ∧
      blocks'.length = blocks.length ∧ blocks'[k]? = some t ∧ ∀ j, j ≠ k → blocks'[j]? = blocks[j]?) ∧
    (∀ blocks', systemStep blocks k = .next blocks' → ∃ t, stepAt (Config.blockBase k) s = .next t ∧ blocks'[k]? = some t) ∧
    ∀ (off : Nat) (w : Width) (op : AccessOp) (rest : List Turn),
      s.agenda = .bus (Config.blockBase k + off) w op :: rest →
      stepAt (Config.blockBase k) s = stepAt (Config.blockBase k) { s with agenda := .access off w op :: rest }

/-! ### The host's accesses (20_memory.md, 70_reset_and_hazards.md) -/

/-- R58, 10_state.md R21: the CMD write while BUSY = 0 starts a command, and opens the model's busy window. Where the last command's
completion has not been polled yet it sets FAULT as well (R262). That it starts its command there, where R262 says that it changes
no other state, is the model's choice (log 9). -/
def Obligations.CmdWriteStartsACommand : Prop :=
  ∀ (s : State) (v : Word) (rest : List Turn), s.agenda = .access 0x0 .word (.write v) :: rest → s.busy = false →
    step s = .next { s with
      cmd := v, busy := true, done := false, err := .ok, window := true, fault := s.fault || s.window, agenda := rest }

/-- R262: inside the busy window a 32-bit read of STATUS or BUFSZ is served, and any other access the bus has a meaning for sets
FAULT: a write changes nothing else, a read only the value returned. That the window lasts until the poll that sees BUSY = 0 is
read from R262's words, and that a CMD write with BUSY = 0 starts its command besides, as CmdWriteStartsACommand says, is the model's
choice between R58 and R262 (log 9). -/
def Obligations.BusyWindowAccessSetsFault : Prop :=
  ∀ (s : State) (off : Nat) (w : Width) (op : AccessOp) (rest : List Turn),
    s.agenda = .access off w op :: rest → s.hazardOpen = true →
    (off = 0x4 → w = .word → op = .read →
      step s = .next { s with readData := s.statusWord, window := s.window && s.busy, agenda := rest }) ∧
    (off = 0x18 → w = .word → op = .read → step s = .next { s with readData := s.bufsz, agenda := rest }) ∧
    (off < 0x40000 → meaningful off w = true → ¬ (w = .word ∧ op = .read ∧ (off = 0x4 ∨ off = 0x18)) →
      ∃ t, step s = .next t ∧ t.fault = true ∧
        (s.busy = true ∨ off ≠ 0 ∨ op = .read →
          t = { s with fault := true, readData := t.readData, draws := t.draws, agenda := rest } ∧
          ∀ v, op = .write v → t.readData = s.readData ∧ t.draws = s.draws))

/-- R58, 10_state.md R38: a host read the bus has a meaning for, outside the busy window, is always served, of an unwritten byte too,
and changes nothing but the value returned and the model's counter of free values (log 12). -/
def Obligations.HostReadsHaveNoSideEffects : Prop :=
  ∀ (s : State) (off : Nat) (w : Width) (rest : List Turn), s.agenda = .access off w .read :: rest → s.hazardOpen = false →
    off < 0x40000 → meaningful off w = true →
    ∃ t, step s = .next t ∧ t = { s with readData := t.readData, draws := t.draws, agenda := rest }

/-- R51, R52, R54: what an aligned 32-bit read of each register and reserved offset returns, buffer indices at or above BUF_BYTES
among them, and what an 8-bit read of a reserved offset returns. That R54 covers the 8-bit read of an offset that R51 reserves
outside the buffer windows is read from its words (log 11). -/
def Obligations.RegisterReadsFollowTheAddressMap : Prop :=
  ∀ (s : State) (off : Nat) (rest : List Turn), s.hazardOpen = false →
    (s.agenda = .access off .word .read :: rest →
      (off = 0x00 → step s = .next { s with readData := s.cmd, agenda := rest }) ∧
      (off = 0x04 → ∃ t, step s = .next t ∧ t = { s with readData := t.readData, agenda := rest } ∧
        t.readData.getLsbD 0 = s.busy ∧ t.readData.getLsbD 1 = s.done ∧ t.readData.extractLsb' 4 4 = codeBits s.err ∧
        t.readData.extractLsb' 2 2 = 0 ∧ t.readData.extractLsb' 8 24 = 0) ∧
      (off = 0x08 → step s = .next { s with readData := if s.result then 1 else 0, agenda := rest }) ∧
      (off = 0x0C → step s = .next { s with readData := s.csum, agenda := rest }) ∧
      (off = 0x10 → step s = .next { s with readData := s.ilen.setWidth 32, agenda := rest }) ∧
      (off = 0x14 → step s = .next { s with readData := s.olen.setWidth 32, agenda := rest }) ∧
      (off = 0x18 → step s = .next { s with readData := s.bufsz, agenda := rest }) ∧
      (∀ k : Fin 16, off = 0x40 + 4 * k.val → step s = .next { s with readData := s.freg k, agenda := rest }) ∧
      (off % 4 = 0 → ReservedOffset s off → step s = .next { s with readData := 0, agenda := rest })) ∧
    (s.agenda = .access off .byte .read :: rest → ReservedOffset s off →
      step s = .next { s with readData := 0, agenda := rest })

/-- R30, R33, R54, R55: ILEN keeps 16 bits, a field register takes the word and leaves the others, and the read-only registers,
the reserved offsets and OBUF ignore the write, the last two an 8-bit write too (at an offset that R51 reserves outside the buffer
windows: log 11). -/
def Obligations.RegisterWritesFollowTheAddressMap : Prop :=
  (∀ (s : State) (off : Nat) (v : Word) (rest : List Turn), s.hazardOpen = false →
    s.agenda = .access off .byte (.write v) :: rest →
    (0x20000 ≤ off ∧ off < 0x30000) ∨ ReservedOffset s off → step s = .next { s with agenda := rest }) ∧
  ∀ (s : State) (off : Nat) (v : Word) (rest : List Turn), s.hazardOpen = false →
    s.agenda = .access off .word (.write v) :: rest →
    (off = 0x10 → step s = .next { s with ilen := v.setWidth 16, agenda := rest }) ∧
    (∀ k : Fin 16, off = 0x40 + 4 * k.val → ∃ t, step s = .next t ∧ t = { s with f := t.f, agenda := rest } ∧
      ∀ j, t.freg j = if j = k then v else s.freg j) ∧
    (off % 4 = 0 → off ∈ [0x4, 0x8, 0xC, 0x14, 0x18] ∨ (0x20000 ≤ off ∧ off < 0x30000) ∨ ReservedOffset s off →
      step s = .next { s with agenda := rest })

/-- R53: an aligned 32-bit write of the IBUF window writes four bytes in lane order, an 8-bit write one byte, bytes at or above
BUF_BYTES excepted (R54); a read of written bytes gives them back in the same lanes. In an aligned 32-bit read, one across
BUF_BYTES included, each lane with a written byte holds it and each lane at or above BUF_BYTES holds 0. -/
def Obligations.BufferAccessesUseTheLaneOrder : Prop :=
  ∀ (s : State) (i : Nat) (rest : List Turn), s.hazardOpen = false → i < 0x10000 →
    (∀ v, i % 4 = 0 → s.agenda = .access (0x10000 + i) .word (.write v) :: rest →
      ∃ t, step s = .next t ∧ t = { s with ibuf := t.ibuf, agenda := rest } ∧
        ∀ x, t.ibuf.read x =
          if i ≤ x ∧ x < i + 4 ∧ x < s.bufBytes then some (v.extractLsb' (8 * (x - i)) 8) else s.ibuf.read x) ∧
    (∀ v, s.agenda = .access (0x10000 + i) .byte (.write v) :: rest →
      ∃ t, step s = .next t ∧ t = { s with ibuf := t.ibuf, agenda := rest } ∧
        ∀ x, t.ibuf.read x = if x = i ∧ i < s.bufBytes then some (v.setWidth 8) else s.ibuf.read x) ∧
    (∀ b0 b1 b2 b3 : Byte, i % 4 = 0 → i + 3 < s.bufBytes →
      (s.agenda = .access (0x10000 + i) .word .read :: rest → s.ibuf.read i = some b0 → s.ibuf.read (i + 1) = some b1 →
        s.ibuf.read (i + 2) = some b2 → s.ibuf.read (i + 3) = some b3 →
        step s = .next { s with readData := b3 ++ b2 ++ b1 ++ b0, agenda := rest }) ∧
      (s.agenda = .access (0x20000 + i) .word .read :: rest → s.obuf.read i = some b0 → s.obuf.read (i + 1) = some b1 →
        s.obuf.read (i + 2) = some b2 → s.obuf.read (i + 3) = some b3 →
        step s = .next { s with readData := b3 ++ b2 ++ b1 ++ b0, agenda := rest })) ∧
    (∀ (base : Nat) (m : Memory), i % 4 = 0 → (base, m) ∈ [(0x10000, s.ibuf), (0x20000, s.obuf)] →
      s.agenda = .access (base + i) .word .read :: rest →
      ∃ t, step s = .next t ∧ t = { s with readData := t.readData, draws := t.draws, agenda := rest } ∧
        ∀ j, j < 4 →
          (s.bufBytes ≤ i + j → t.readData.extractLsb' (8 * j) 8 = 0) ∧
          (i + j < s.bufBytes → ∀ b, m.read (i + j) = some b → t.readData.extractLsb' (8 * j) 8 = b)) ∧
    (∀ b : Byte, i < s.bufBytes →
      (s.agenda = .access (0x10000 + i) .byte .read :: rest → s.ibuf.read i = some b →
        step s = .next { s with readData := b.setWidth 32, agenda := rest }) ∧
      (s.agenda = .access (0x20000 + i) .byte .read :: rest → s.obuf.read i = some b →
        step s = .next { s with readData := b.setWidth 32, agenda := rest }))

/-- R56: a 16-bit access, an 8-bit access to a register and a misaligned 32-bit access are refused. R5: an access at an absolute
address is the access at its offset from CODEC_BASE. An address outside the 18-bit space, below the base or past its end, faults,
which is the model's choice (log 6). -/
def Obligations.AccessesWithoutMeaningAreRefused : Prop :=
  (∀ (s : State) (address : Nat) (w : Width) (op : AccessOp) (rest : List Turn), s.agenda = .bus address w op :: rest →
    (Config.codecBase ≤ address → step s = step { s with agenda := .access (address - Config.codecBase) w op :: rest }) ∧
    (address < Config.codecBase → step s = .fault (.outsideAddressSpace address))) ∧
  ∀ (s : State) (off : Nat) (w : Width) (op : AccessOp) (rest : List Turn), s.agenda = .access off w op :: rest →
    s.hazardOpen = false →
    (off < 0x40000 →
      w = .half ∨ (w = .byte ∧ (off < 0x1C ∨ (0x40 ≤ off ∧ off < 0x80))) ∨ (w = .word ∧ off % 4 ≠ 0) →
      step s = .refused (.hostAccess off w)) ∧
    (0x40000 ≤ off → step s = .fault (.outsideAddressSpace off))

/-! ### The checksum engine (40_checksum_engine.md) -/

/-- R100, R101: the table-driven CRC-32 equals the bit-serial one. -/
def Obligations.TableDrivenCrcEqualsBitSerialCrc : Prop :=
  ∀ d : Bytes, crc32 crcTable d = crcBitSerial d

/-- R102: the word sum weighs the bytes at even places by 256 and those at odd places by 1, so an odd last byte is a high byte. The
fold loop ends, with the one's-complement sum: 0 for a sum of 0, else the representative of the sum modulo 65535 in 1 to 65535;
`inet` is its complement. -/
def Obligations.InetIsTheOnesComplementSum : Prop :=
  ∀ d : Bytes,
    wordSum d = ((List.range d.length).map fun i => (byteAt d i).toNat * if i % 2 = 0 then 256 else 1).sum ∧
    (inet d).toNat = 0xFFFF - (if wordSum d = 0 then 0 else (wordSum d - 1) % 65535 + 1)

/-- R164, R102: changing any one bit of a sequence changes its Internet checksum. -/
def Obligations.InetSeesEverySingleBitFlip : Prop :=
  ∀ (d : Bytes) (i b : Nat), i < d.length → b < 8 → inet (d.set i (byteAt d i ^^^ (1#8 <<< b))) ≠ inet d

/-- R105: CRC32. -/
def Obligations.Crc32GivesTheCrcOfTheInput : Prop :=
  decode 0x00000000 = .ok .crc32 ∧ (∀ rom, crc32 rom [] = 0) ∧
  ∀ s : State,
    (s.bufBytes < s.n → Fails .crc32 s .badArg) ∧
    (s.n ≤ s.bufBytes → FaultsWithin .crc32 s 0 s.n) ∧
    ∀ d, InputIs s d → Completes .crc32 s { csum := some (crc32 s.crcrom d) }

/-- R106: INET. -/
def Obligations.InetGivesTheChecksumOfTheInput : Prop :=
  decode 0x00000001 = .ok .inet ∧ inet [] = 0xFFFF ∧
  ∀ s : State,
    (s.bufBytes < s.n → Fails .inet s .badArg) ∧
    (s.n ≤ s.bufBytes → FaultsWithin .inet s 0 s.n) ∧
    ∀ d, InputIs s d → Completes .inet s { csum := some ((inet d).setWidth 32) }

/-- R103, R104, R107: INETPH sums the 12 pseudo-header bytes and the input. -/
def Obligations.InetphGivesTheChecksumWithPseudoHeader : Prop :=
  decode 0x00000002 = .ok .inetph ∧
  ∀ s : State,
    (s.bufBytes < s.n → Fails .inetph s .badArg) ∧
    (s.n ≤ s.bufBytes → FaultsWithin .inetph s 0 s.n) ∧
    ∀ d, InputIs s d → Completes .inetph s
      { csum := some ((inet (s.beF 4 0 ++ s.beF 4 1 ++ [0x00] ++ s.beF 1 2 ++ s.beF 2 3 ++ d)).setWidth 32) }

/-! ### Ethernet (41_ethernet.md) -/

/-- R122, R123: ETH.ENC. The payload is the first 1500 input bytes at most, zero-padded to 46. The three EtherType values are those
of 00_scope.md R2, which marks them as general knowledge (log 15). -/
def Obligations.EthEncBuildsTheFrame : Prop :=
  decode 0x00000010 = .ok .ethEnc ∧
  (etherType 0 = 0x0800 ∧ etherType 1 = 0x0806 ∧ etherType 2 = 0x86DD ∧ etherType 3 = Config.etypeNdp ∧
    etherType 4 = Config.etypeIcmp ∧ ∀ v : Word, 4 < v.toNat → etherType v = 0) ∧
  ∀ s : State, Config.legalBufBytes s.bufBytes →
    (s.bufBytes < s.n → Fails .ethEnc s .badArg) ∧
    (s.n ≤ s.bufBytes → FaultsWithin .ethEnc s 0 (min s.n 1500)) ∧
    ∀ p body : Bytes, s.n ≤ s.bufBytes → p.length = min s.n 1500 → IbufHolds s 0 p →
      body = s.beF 2 0 ++ s.beF 4 1 ++ s.beF 2 2 ++ s.beF 4 3 ++ be 2 (etherType (s.freg 4)).toNat ++ p ++
        zeros (46 - p.length) →
      Completes .ethEnc s {
        out := some (body ++ be 4 (crc32 s.crcrom body).toNat)
        regs := [(5, (etherType (s.freg 4)).setWidth 32), (6, crc32 s.crcrom body)] }

/-- R124: ETH.DEC reads the 14 header bytes and the 4 trailer bytes. -/
def Obligations.EthDecGivesTheFields : Prop :=
  decode 0x00000011 = .ok .ethDec ∧
  ∀ s : State,
    (s.bufBytes < s.n → Fails .ethDec s .badArg) ∧
    (s.n ≤ s.bufBytes → s.n < 64 → Fails .ethDec s .tooShort) ∧
    (s.n ≤ s.bufBytes → 64 ≤ s.n → FaultsWithin .ethDec s 0 14) ∧
    ∀ h : Bytes, s.n ≤ s.bufBytes → 64 ≤ s.n → h.length = 14 → IbufHolds s 0 h →
      FaultsWithin .ethDec s (s.n - 4) s.n ∧
      ∀ t : Bytes, t.length = 4 → IbufHolds s (s.n - 4) t → Completes .ethDec s { regs := [
        (0, wordAt h 0 2), (1, wordAt h 2 6), (2, wordAt h 6 8), (3, wordAt h 8 12), (5, wordAt h 12 14),
        (6, wordAt t 0 4), (12, 14), (13, BitVec.ofNat 32 (s.n - 18))] }

/-- R125: ETH.CHK compares the CRC of all but the last 4 bytes with their big-endian value. -/
def Obligations.EthChkComparesTheTrailer : Prop :=
  decode 0x00000013 = .ok .ethChk ∧
  ∀ s : State,
    (s.bufBytes < s.n → Fails .ethChk s .badArg) ∧
    (s.n ≤ s.bufBytes → s.n < 64 → Fails .ethChk s .tooShort) ∧
    (s.n ≤ s.bufBytes → 64 ≤ s.n → FaultsWithin .ethChk s 0 s.n) ∧
    ∀ body trailer : Bytes, trailer.length = 4 → 64 ≤ s.n → InputIs s (body ++ trailer) → Completes .ethChk s {
      csum := some (crc32 s.crcrom body), result := some (decide ((crc32 s.crcrom body).toNat = beVal trailer)) }

/-! ### ARP and NDP (42_arp_ndp.md) -/

/-- R141: ARP.ENC, whatever ILEN and IBUF hold. -/
def Obligations.ArpEncBuildsThePacket : Prop :=
  decode 0x00000020 = .ok .arpEnc ∧
  ∀ s : State, Config.legalBufBytes s.bufBytes → Completes .arpEnc s { out := some (
    s.beF 2 0 ++ s.beF 2 1 ++ s.beF 1 2 ++ s.beF 1 3 ++ s.beF 2 4 ++ (s.beF 2 5 ++ s.beF 4 6) ++ s.beF 4 7 ++
    (s.beF 2 8 ++ s.beF 4 9) ++ s.beF 4 10) }

/-- R142: ARP.DEC. -/
def Obligations.ArpDecGivesTheFields : Prop :=
  decode 0x00000021 = .ok .arpDec ∧
  ∀ s : State,
    (s.bufBytes < s.n → Fails .arpDec s .badArg) ∧
    (s.n ≤ s.bufBytes → s.n < 28 → Fails .arpDec s .tooShort) ∧
    (s.n ≤ s.bufBytes → 28 ≤ s.n → FaultsWithin .arpDec s 0 28) ∧
    ∀ b : Bytes, b.length = 28 → HeaderIs s b → Completes .arpDec s { regs := [
      (0, wordAt b 0 2), (1, wordAt b 2 4), (2, wordAt b 4 5), (3, wordAt b 5 6), (4, wordAt b 6 8), (5, wordAt b 8 10),
      (6, wordAt b 10 14), (7, wordAt b 14 18), (8, wordAt b 18 20), (9, wordAt b 20 24), (10, wordAt b 24 28)] }

/-- R143, R147: ARP.VAL and NDP.VAL. -/
def Obligations.ArpAndNdpValGiveTheirPredicates : Prop :=
  decode 0x00000022 = .ok .arpVal ∧ decode 0x00000032 = .ok .ndpVal ∧
  ∀ s : State,
    Completes .arpVal s { result := some (decide ((s.freg 0).toNat % 2 ^ 16 = 1 ∧ (s.freg 1).toNat % 2 ^ 16 = 0x0800 ∧
      (s.freg 2).toNat % 2 ^ 8 = 6 ∧ (s.freg 3).toNat % 2 ^ 8 = 4)) } ∧
    Completes .ndpVal s { result := some (decide (133 ≤ (s.freg 0).toNat % 2 ^ 8 ∧ (s.freg 0).toNat % 2 ^ 8 ≤ 136)) }

/-- R145: NDP.ENC copies the checksum field and the options tail. -/
def Obligations.NdpEncBuildsThePacket : Prop :=
  decode 0x00000030 = .ok .ndpEnc ∧
  ∀ s : State,
    (s.bufBytes < s.n → Fails .ndpEnc s .badArg) ∧
    (s.n ≤ s.bufBytes → FaultsWithin .ndpEnc s 0 s.n) ∧
    ∀ d, InputIs s d →
      (s.bufBytes < 24 + s.n → Fails .ndpEnc s .badArg) ∧
      (24 + s.n ≤ s.bufBytes → Completes .ndpEnc s {
        out := some (s.beF 1 0 ++ s.beF 1 1 ++ s.beF 2 2 ++ s.beF 4 3 ++
          (s.beF 4 4 ++ s.beF 4 5 ++ s.beF 4 6 ++ s.beF 4 7) ++ d)
        regs := [(12, 0), (13, BitVec.ofNat 32 s.n)] })

/-- R146: NDP.DEC. -/
def Obligations.NdpDecGivesTheFields : Prop :=
  decode 0x00000031 = .ok .ndpDec ∧
  ∀ s : State,
    (s.bufBytes < s.n → Fails .ndpDec s .badArg) ∧
    (s.n ≤ s.bufBytes → s.n < 24 → Fails .ndpDec s .tooShort) ∧
    (s.n ≤ s.bufBytes → 24 ≤ s.n → FaultsWithin .ndpDec s 0 24) ∧
    ∀ b : Bytes, b.length = 24 → HeaderIs s b → Completes .ndpDec s { regs := [
      (0, wordAt b 0 1), (1, wordAt b 1 2), (2, wordAt b 2 4), (3, wordAt b 4 8), (4, wordAt b 8 12), (5, wordAt b 12 16),
      (6, wordAt b 16 20), (7, wordAt b 20 24), (12, 24), (13, BitVec.ofNat 32 (s.n - 24))] }

/-! ### ICMP, IPv4, IPv6 (43_icmp_ipv4_ipv6.md) -/

/-- R161: ICMP.ENC. The checksum covers header and data, with zeros in its own place. -/
def Obligations.IcmpEncBuildsThePacket : Prop :=
  decode 0x00000040 = .ok .icmpEnc ∧
  ∀ s : State,
    (s.bufBytes < s.n → Fails .icmpEnc s .badArg) ∧
    (s.n ≤ s.bufBytes → FaultsWithin .icmpEnc s 0 s.n) ∧
    ∀ (d : Bytes) (c : Half), InputIs s d →
      c = inet (s.beF 1 0 ++ s.beF 1 1 ++ [0, 0] ++ s.beF 2 3 ++ s.beF 2 4 ++ d) →
      (s.bufBytes < 8 + s.n → Fails .icmpEnc s .badArg) ∧
      (8 + s.n ≤ s.bufBytes → Completes .icmpEnc s {
        out := some (s.beF 1 0 ++ s.beF 1 1 ++ be 2 c.toNat ++ s.beF 2 3 ++ s.beF 2 4 ++ d)
        regs := [(2, c.setWidth 32), (12, 0), (13, BitVec.ofNat 32 s.n)] })

/-- R162, R198: ICMP.DEC and UDP.DEC read 8 header bytes; the data is the rest of the input. -/
def Obligations.IcmpAndUdpDecGiveTheFields : Prop :=
  decode 0x00000041 = .ok .icmpDec ∧ decode 0x00000081 = .ok .udpDec ∧
  ∀ s : State,
    (s.bufBytes < s.n → Fails .icmpDec s .badArg ∧ Fails .udpDec s .badArg) ∧
    (s.n ≤ s.bufBytes → s.n < 8 → Fails .icmpDec s .tooShort ∧ Fails .udpDec s .tooShort) ∧
    (s.n ≤ s.bufBytes → 8 ≤ s.n → FaultsWithin .icmpDec s 0 8 ∧ FaultsWithin .udpDec s 0 8) ∧
    ∀ b : Bytes, b.length = 8 → HeaderIs s b →
      Completes .icmpDec s { regs := [
        (0, wordAt b 0 1), (1, wordAt b 1 2), (2, wordAt b 2 4), (3, wordAt b 4 6), (4, wordAt b 6 8), (12, 8),
        (13, BitVec.ofNat 32 (s.n - 8))] } ∧
      Completes .udpDec s { regs := [
        (0, wordAt b 0 2), (1, wordAt b 2 4), (2, wordAt b 4 6), (3, wordAt b 6 8), (12, 8),
        (13, BitVec.ofNat 32 (s.n - 8))] }

/-- R163, R170, R175: ICMP.VAL, IP4.VAL and IP6.VAL. -/
def Obligations.IcmpAndIpValGiveTheirPredicates : Prop :=
  decode 0x00000042 = .ok .icmpVal ∧ decode 0x00000052 = .ok .ip4Val ∧ decode 0x00000062 = .ok .ip6Val ∧
  ∀ s : State,
    Completes .icmpVal s { result := some true } ∧
    Completes .ip4Val s { result := some (decide ((s.freg 0).toNat / 16 % 16 = 4 ∧ 20 ≤ (s.freg 2).toNat % 2 ^ 16)) } ∧
    Completes .ip6Val s { result := some (decide ((s.freg 0).toNat / 2 ^ 28 = 6)) }

/-- R164: ICMP.CHK recomputes the checksum with zeros in its place (R93) and compares. -/
def Obligations.IcmpChkComparesTheChecksum : Prop :=
  decode 0x00000043 = .ok .icmpChk ∧
  ∀ s : State,
    (s.bufBytes < s.n → Fails .icmpChk s .badArg) ∧
    (s.n ≤ s.bufBytes → s.n < 8 → Fails .icmpChk s .tooShort) ∧
    (s.n ≤ s.bufBytes → 8 ≤ s.n → FaultsWithin .icmpChk s 0 s.n) ∧
    ∀ (a stored z : Bytes) (c : Half), a.length = 2 → stored.length = 2 → 8 ≤ s.n → InputIs s (a ++ stored ++ z) →
      c = inet (a ++ [0, 0] ++ z) →
      Completes .icmpChk s { csum := some (c.setWidth 32), result := some (decide (c.toNat = beVal stored)) }

/-- R168: IP4.ENC. The checksum covers the header alone, options included; version/IHL and total length are copied. -/
def Obligations.Ip4EncBuildsThePacket : Prop :=
  decode 0x00000050 = .ok .ip4Enc ∧
  ∀ (s : State) (o : Nat), o = (s.freg 10).toNat →
    (s.bufBytes < s.n ∨ 40 < o ∨ o % 4 ≠ 0 ∨ s.n < o ∨ s.bufBytes < 20 + s.n → Fails .ip4Enc s .badArg) ∧
    (o ≤ 40 → o % 4 = 0 → o ≤ s.n → 20 + s.n ≤ s.bufBytes →
      FaultsWithin .ip4Enc s 0 s.n ∧
      ∀ (opts data : Bytes) (c : Half), opts.length = o → InputIs s (opts ++ data) →
        c = inet (s.beF 1 0 ++ s.beF 1 1 ++ s.beF 2 2 ++ s.beF 2 3 ++ s.beF 2 4 ++ s.beF 1 5 ++ s.beF 1 6 ++ [0, 0] ++
          s.beF 4 8 ++ s.beF 4 9 ++ opts) →
        Completes .ip4Enc s {
          out := some (s.beF 1 0 ++ s.beF 1 1 ++ s.beF 2 2 ++ s.beF 2 3 ++ s.beF 2 4 ++ s.beF 1 5 ++ s.beF 1 6 ++
            be 2 c.toNat ++ s.beF 4 8 ++ s.beF 4 9 ++ opts ++ data)
          regs := [(7, c.setWidth 32), (11, 0), (12, BitVec.ofNat 32 o), (13, BitVec.ofNat 32 (s.n - o))] })

/-- R166, R167, R169: IP4.DEC, with the header length floored at 20 and the data length from the total length when it is
consistent with the input. -/
def Obligations.Ip4DecGivesTheFields : Prop :=
  decode 0x00000051 = .ok .ip4Dec ∧
  ∀ s : State,
    (s.bufBytes < s.n → Fails .ip4Dec s .badArg) ∧
    (s.n ≤ s.bufBytes → s.n < 20 → Fails .ip4Dec s .tooShort) ∧
    (s.n ≤ s.bufBytes → 20 ≤ s.n → FaultsWithin .ip4Dec s 0 20) ∧
    ∀ (h : Bytes) (hl tl : Nat), h.length = 20 → HeaderIs s h → hl = max 20 (((byteAt h 0).toNat &&& 0x0F) * 4) →
      tl = beVal (seg h 2 4) →
      (s.n < hl → Fails .ip4Dec s .tooShort) ∧
      (hl ≤ s.n → Completes .ip4Dec s { regs := [
        (0, wordAt h 0 1), (1, wordAt h 1 2), (2, BitVec.ofNat 32 tl), (3, wordAt h 4 6), (4, wordAt h 6 8),
        (5, wordAt h 8 9), (6, wordAt h 9 10), (7, wordAt h 10 12), (8, wordAt h 12 16), (9, wordAt h 16 20),
        (10, BitVec.ofNat 32 (hl - 20)), (11, 20), (12, BitVec.ofNat 32 hl),
        (13, BitVec.ofNat 32 (if hl ≤ tl ∧ tl ≤ s.n then tl - hl else s.n - hl))] })

/-- R171: IP4.CHK covers the hl header bytes alone, whatever the data. -/
def Obligations.Ip4ChkComparesTheHeaderChecksum : Prop :=
  decode 0x00000053 = .ok .ip4Chk ∧
  ∀ s : State,
    (s.bufBytes < s.n → Fails .ip4Chk s .badArg) ∧
    (s.n ≤ s.bufBytes → s.n < 20 → Fails .ip4Chk s .tooShort) ∧
    (s.n ≤ s.bufBytes → 20 ≤ s.n → FaultsWithin .ip4Chk s 0 1) ∧
    ∀ (b0 : Byte) (hl : Nat), s.n ≤ s.bufBytes → 20 ≤ s.n → s.ibuf.read 0 = some b0 →
      hl = max 20 ((b0.toNat &&& 0x0F) * 4) →
      (s.n < hl → Fails .ip4Chk s .tooShort) ∧
      (hl ≤ s.n → FaultsWithin .ip4Chk s 0 hl) ∧
      ∀ (a stored z : Bytes) (c : Half), hl ≤ s.n → a.length = 10 → stored.length = 2 → (a ++ stored ++ z).length = hl →
        IbufHolds s 0 (a ++ stored ++ z) → c = inet (a ++ [0, 0] ++ z) →
        Completes .ip4Chk s { csum := some (c.setWidth 32), result := some (decide (c.toNat = beVal stored)) }

/-- R173: IP6.ENC; no checksum, the payload length copied. -/
def Obligations.Ip6EncBuildsThePacket : Prop :=
  decode 0x00000060 = .ok .ip6Enc ∧
  ∀ s : State,
    (s.bufBytes < s.n → Fails .ip6Enc s .badArg) ∧
    (s.n ≤ s.bufBytes → FaultsWithin .ip6Enc s 0 s.n) ∧
    ∀ d, InputIs s d →
      (s.bufBytes < 40 + s.n → Fails .ip6Enc s .badArg) ∧
      (40 + s.n ≤ s.bufBytes → Completes .ip6Enc s {
        out := some (s.beF 4 0 ++ s.beF 2 1 ++ s.beF 1 2 ++ s.beF 1 3 ++
          (s.beF 4 4 ++ s.beF 4 5 ++ s.beF 4 6 ++ s.beF 4 7) ++ (s.beF 4 8 ++ s.beF 4 9 ++ s.beF 4 10 ++ s.beF 4 11) ++ d)
        regs := [(12, 0), (13, BitVec.ofNat 32 s.n)] })

/-- R174: IP6.DEC; the data is the rest of the input whatever the payload length says. -/
def Obligations.Ip6DecGivesTheFields : Prop :=
  decode 0x00000061 = .ok .ip6Dec ∧
  ∀ s : State,
    (s.bufBytes < s.n → Fails .ip6Dec s .badArg) ∧
    (s.n ≤ s.bufBytes → s.n < 40 → Fails .ip6Dec s .tooShort) ∧
    (s.n ≤ s.bufBytes → 40 ≤ s.n → FaultsWithin .ip6Dec s 0 40) ∧
    ∀ h : Bytes, h.length = 40 → HeaderIs s h → Completes .ip6Dec s { regs := [
      (0, wordAt h 0 4), (1, wordAt h 4 6), (2, wordAt h 6 7), (3, wordAt h 7 8), (4, wordAt h 8 12), (5, wordAt h 12 16),
      (6, wordAt h 16 20), (7, wordAt h 20 24), (8, wordAt h 24 28), (9, wordAt h 28 32), (10, wordAt h 32 36),
      (11, wordAt h 36 40), (12, 40), (13, BitVec.ofNat 32 (s.n - 40))] }

/-! ### TCP and UDP (44_tcp_udp.md) -/

/-- R192: TCP.ENC. The data offset is 5 + o/4 words and the low 9 bits of F4 are the flags. -/
def Obligations.TcpEncBuildsTheSegment : Prop :=
  decode 0x00000070 = .ok .tcpEnc ∧
  ∀ (s : State) (o w : Nat), o = (s.freg 10).toNat → w = ((5 + o / 4) <<< 12 ||| ((s.freg 4).toNat &&& 0x1FF)) →
    (s.bufBytes < s.n ∨ 40 < o ∨ o % 4 ≠ 0 ∨ s.n < o ∨ s.bufBytes < 20 + s.n → Fails .tcpEnc s .badArg) ∧
    (o ≤ 40 → o % 4 = 0 → o ≤ s.n → 20 + s.n ≤ s.bufBytes →
      FaultsWithin .tcpEnc s 0 s.n ∧
      ∀ (d : Bytes) (c : Half), InputIs s d →
        c = inet (s.beF 4 8 ++ s.beF 4 9 ++ [0, 6] ++ be 2 (20 + s.n) ++
          (s.beF 2 0 ++ s.beF 2 1 ++ s.beF 4 2 ++ s.beF 4 3 ++ be 2 w ++ s.beF 2 5 ++ [0, 0] ++ s.beF 2 7 ++ d)) →
        Completes .tcpEnc s {
          out := some (s.beF 2 0 ++ s.beF 2 1 ++ s.beF 4 2 ++ s.beF 4 3 ++ be 2 w ++ s.beF 2 5 ++ be 2 c.toNat ++
            s.beF 2 7 ++ d)
          regs := [(4, BitVec.ofNat 32 w), (6, c.setWidth 32), (11, 0), (12, BitVec.ofNat 32 o),
            (13, BitVec.ofNat 32 (s.n - o))] })

/-- R191, R193: TCP.DEC, with the header length floored at 20; F8 and F9 stay. -/
def Obligations.TcpDecGivesTheFields : Prop :=
  decode 0x00000071 = .ok .tcpDec ∧
  ∀ s : State,
    (s.bufBytes < s.n → Fails .tcpDec s .badArg) ∧
    (s.n ≤ s.bufBytes → s.n < 20 → Fails .tcpDec s .tooShort) ∧
    (s.n ≤ s.bufBytes → 20 ≤ s.n → FaultsWithin .tcpDec s 0 20) ∧
    ∀ (h : Bytes) (hl : Nat), h.length = 20 → HeaderIs s h → hl = max 20 (((byteAt h 12).toNat >>> 4) * 4) →
      (s.n < hl → Fails .tcpDec s .tooShort) ∧
      (hl ≤ s.n → Completes .tcpDec s { regs := [
        (0, wordAt h 0 2), (1, wordAt h 2 4), (2, wordAt h 4 8), (3, wordAt h 8 12), (4, wordAt h 12 14),
        (5, wordAt h 14 16), (6, wordAt h 16 18), (7, wordAt h 18 20), (10, BitVec.ofNat 32 (hl - 20)), (11, 20),
        (12, BitVec.ofNat 32 hl), (13, BitVec.ofNat 32 (s.n - hl))] })

/-- R194, R199: TCP.VAL and UDP.VAL. -/
def Obligations.TcpAndUdpValGiveTheirPredicates : Prop :=
  decode 0x00000072 = .ok .tcpVal ∧ decode 0x00000082 = .ok .udpVal ∧
  ∀ s : State,
    Completes .tcpVal s { result := some (decide ((s.freg 0).toNat % 2 ^ 16 ≠ 0 ∧ (s.freg 1).toNat % 2 ^ 16 ≠ 0)) } ∧
    Completes .udpVal s { result := some (decide ((s.freg 0).toNat % 2 ^ 16 ≠ 0 ∧ (s.freg 1).toNat % 2 ^ 16 ≠ 0 ∧
      8 ≤ (s.freg 2).toNat % 2 ^ 16)) }

/-- R195: TCP.CHK reads byte 12 first, then the segment; the pseudo-header length is n. -/
def Obligations.TcpChkComparesTheChecksum : Prop :=
  decode 0x00000073 = .ok .tcpChk ∧
  ∀ s : State,
    (s.bufBytes < s.n → Fails .tcpChk s .badArg) ∧
    (s.n ≤ s.bufBytes → s.n < 20 → Fails .tcpChk s .tooShort) ∧
    (s.n ≤ s.bufBytes → 20 ≤ s.n → FaultsWithin .tcpChk s 12 13) ∧
    ∀ (b12 : Byte) (hl : Nat), s.n ≤ s.bufBytes → 20 ≤ s.n → s.ibuf.read 12 = some b12 →
      hl = max 20 ((b12.toNat >>> 4) * 4) →
      (s.n < hl → Fails .tcpChk s .tooShort) ∧
      (hl ≤ s.n → FaultsWithin .tcpChk s 0 s.n) ∧
      ∀ (a stored z : Bytes) (c : Half), hl ≤ s.n → a.length = 16 → stored.length = 2 → InputIs s (a ++ stored ++ z) →
        c = inet (s.beF 4 8 ++ s.beF 4 9 ++ [0, 6] ++ be 2 s.n ++ (a ++ [0, 0] ++ z)) →
        Completes .tcpChk s { csum := some (c.setWidth 32), result := some (decide (c.toNat = beVal stored)) }

/-- R197: UDP.ENC. The length is 8 + n, and a computed checksum of 0 is written as 0. -/
def Obligations.UdpEncBuildsTheDatagram : Prop :=
  decode 0x00000080 = .ok .udpEnc ∧
  ∀ s : State,
    (s.bufBytes < 8 + s.n → Fails .udpEnc s .badArg) ∧
    (8 + s.n ≤ s.bufBytes →
      FaultsWithin .udpEnc s 0 s.n ∧
      ∀ (d : Bytes) (c : Half), InputIs s d →
        c = inet (s.beF 4 8 ++ s.beF 4 9 ++ [0, 17] ++ be 2 (8 + s.n) ++
          (s.beF 2 0 ++ s.beF 2 1 ++ be 2 (8 + s.n) ++ [0, 0] ++ d)) →
        Completes .udpEnc s {
          out := some (s.beF 2 0 ++ s.beF 2 1 ++ be 2 (8 + s.n) ++ be 2 c.toNat ++ d)
          regs := [(2, BitVec.ofNat 32 (8 + s.n)), (3, c.setWidth 32), (12, 0), (13, BitVec.ofNat 32 s.n)] })

/-- R200: UDP.CHK; the pseudo-header length is n. -/
def Obligations.UdpChkComparesTheChecksum : Prop :=
  decode 0x00000083 = .ok .udpChk ∧
  ∀ s : State,
    (s.bufBytes < s.n → Fails .udpChk s .badArg) ∧
    (s.n ≤ s.bufBytes → s.n < 8 → Fails .udpChk s .tooShort) ∧
    (s.n ≤ s.bufBytes → 8 ≤ s.n → FaultsWithin .udpChk s 0 s.n) ∧
    ∀ (a stored z : Bytes) (c : Half), a.length = 6 → stored.length = 2 → 8 ≤ s.n → InputIs s (a ++ stored ++ z) →
      c = inet (s.beF 4 8 ++ s.beF 4 9 ++ [0, 17] ++ be 2 s.n ++ (a ++ [0, 0] ++ z)) →
      Completes .udpChk s { csum := some (c.setWidth 32), result := some (decide (c.toNat = beVal stored)) }

/-! ### TLS and DNS (45_tls_dns.md) -/

/-- R211, R215: TLS.ENC writes version 0x0303 and the length itself; DNS.ENC copies its six fields. -/
def Obligations.TlsAndDnsEncBuildTheMessage : Prop :=
  decode 0x00000090 = .ok .tlsEnc ∧ decode 0x000000A0 = .ok .dnsEnc ∧
  ∀ s : State,
    (s.bufBytes < 5 + s.n → Fails .tlsEnc s .badArg) ∧
    (5 + s.n ≤ s.bufBytes → FaultsWithin .tlsEnc s 0 s.n ∧ ∀ d, InputIs s d → Completes .tlsEnc s {
      out := some (s.beF 1 0 ++ [0x03, 0x03] ++ be 2 s.n ++ d)
      regs := [(1, 0x0303), (2, BitVec.ofNat 32 s.n), (12, 0), (13, BitVec.ofNat 32 s.n)] }) ∧
    (s.bufBytes < 12 + s.n → Fails .dnsEnc s .badArg) ∧
    (12 + s.n ≤ s.bufBytes → FaultsWithin .dnsEnc s 0 s.n ∧ ∀ d, InputIs s d → Completes .dnsEnc s {
      out := some (s.beF 2 0 ++ s.beF 2 1 ++ s.beF 2 2 ++ s.beF 2 3 ++ s.beF 2 4 ++ s.beF 2 5 ++ d)
      regs := [(12, 0), (13, BitVec.ofNat 32 s.n)] })

/-- R212, R216: TLS.DEC and DNS.DEC; the payload is the rest of the input. -/
def Obligations.TlsAndDnsDecGiveTheFields : Prop :=
  decode 0x00000091 = .ok .tlsDec ∧ decode 0x000000A1 = .ok .dnsDec ∧
  ∀ s : State,
    (s.bufBytes < s.n → Fails .tlsDec s .badArg ∧ Fails .dnsDec s .badArg) ∧
    (s.n ≤ s.bufBytes → s.n < 5 → Fails .tlsDec s .tooShort) ∧
    (s.n ≤ s.bufBytes → 5 ≤ s.n → FaultsWithin .tlsDec s 0 5) ∧
    (∀ h : Bytes, h.length = 5 → HeaderIs s h → Completes .tlsDec s { regs := [
      (0, wordAt h 0 1), (1, wordAt h 1 3), (2, wordAt h 3 5), (12, 5), (13, BitVec.ofNat 32 (s.n - 5))] }) ∧
    (s.n ≤ s.bufBytes → s.n < 12 → Fails .dnsDec s .tooShort) ∧
    (s.n ≤ s.bufBytes → 12 ≤ s.n → FaultsWithin .dnsDec s 0 12) ∧
    (∀ h : Bytes, h.length = 12 → HeaderIs s h → Completes .dnsDec s { regs := [
      (0, wordAt h 0 2), (1, wordAt h 2 4), (2, wordAt h 4 6), (3, wordAt h 6 8), (4, wordAt h 8 10), (5, wordAt h 10 12),
      (12, 12), (13, BitVec.ofNat 32 (s.n - 12))] })

/-- R213, R217: TLS.VAL and DNS.VAL. -/
def Obligations.TlsAndDnsValGiveTheirPredicates : Prop :=
  decode 0x00000092 = .ok .tlsVal ∧ decode 0x000000A2 = .ok .dnsVal ∧
  ∀ s : State,
    Completes .tlsVal s { result := some (decide ((s.freg 1).toNat % 2 ^ 16 = 0x0303 ∧
      (s.freg 2).toNat % 2 ^ 16 = (s.freg 13).toNat)) } ∧
    Completes .dnsVal s { result := some (decide ((s.freg 2).toNat % 2 ^ 16 ≠ 0 ∨ (s.freg 3).toNat % 2 ^ 16 ≠ 0 ∨
      (s.freg 4).toNat % 2 ^ 16 ≠ 0 ∨ (s.freg 5).toNat % 2 ^ 16 ≠ 0)) }

/-! ### Control and whole exchanges (46_control.md, 95_test_vectors.md P1, P2) -/

/-- R230: XFER copies OBUF[0 ..< OLEN] to IBUF and OLEN to ILEN, and nothing else; under the invariant it never faults. -/
def Obligations.XferCopiesTheOutputToTheInput : Prop :=
  decode 0x000000F0 = .ok .xfer ∧
  ∀ s : State, Inv s → ∃ t, exec .xfer s = .next t ∧ t.ilen = s.olen ∧
    (∀ a, t.ibuf.read a = if a < s.olen.toNat then s.obuf.read a else s.ibuf.read a) ∧
    Leaves .ok {} { s with ilen := t.ilen, ibuf := t.ibuf } t

/-- P2: what ENC made, transferred, passes CHK, for Ethernet, ICMP, TCP, UDP, and for IPv4 when the IHL describes the options. -/
def Obligations.FreshlyEncodedPacketsPassTheirCheck : Prop :=
  ∀ (enc chk : Instr) (s t : State),
    (enc, chk) ∈ [(.ethEnc, .ethChk), (.icmpEnc, .icmpChk), (.ip4Enc, .ip4Chk), (.tcpEnc, .tcpChk), (.udpEnc, .udpChk)] →
    (enc = .ip4Enc → (s.freg 0).toNat % 16 * 4 = 20 + (s.freg 10).toNat) →
    Config.legalBufBytes s.bufBytes → s.busy = true → exec enc s = .next t → t.busy = false → t.err = .ok →
    ∃ u v, exec .xfer t = .next u ∧ exec chk u = .next v ∧
      v.busy = false ∧ v.err = .ok ∧ v.result = true ∧ v.fault = s.fault

/-- P1: ENC, XFER and DEC give back the fixed fields as ENC left them in the registers, for Ethernet, ARP, NDP and ICMP, and the
variable bytes of NDP and ICMP. -/
def Obligations.DecodingGivesBackEthArpNdpIcmpFields : Prop :=
  ∀ (enc dec : Instr) (fields : List (Fin 16 × Nat)) (slices : List (Fin 16 × Fin 16)) (s t : State),
    (enc, dec, fields, slices) ∈ [
      (.ethEnc, .ethDec, [(0, 16), (1, 32), (2, 16), (3, 32), (5, 16), (6, 32)], []),
      (.arpEnc, .arpDec, [(0, 16), (1, 16), (2, 8), (3, 8), (4, 16), (5, 16), (6, 32), (7, 32), (8, 16), (9, 32), (10, 32)], []),
      (.ndpEnc, .ndpDec, [(0, 8), (1, 8), (2, 16), (3, 32), (4, 32), (5, 32), (6, 32), (7, 32)], [(13, 12)]),
      (.icmpEnc, .icmpDec, [(0, 8), (1, 8), (2, 16), (3, 16), (4, 16)], [(13, 12)])] →
    Config.legalBufBytes s.bufBytes → s.busy = true → exec enc s = .next t → t.busy = false → t.err = .ok →
    ∃ u v, exec .xfer t = .next u ∧ exec dec u = .next v ∧ v.busy = false ∧ v.err = .ok ∧
      (∀ k w, (k, w) ∈ fields → (v.freg k).toNat = (t.freg k).toNat % 2 ^ w) ∧
      ∀ len off, (len, off) ∈ slices → SliceBack len off t v

/-- P1: the same for IPv6, TCP, UDP, TLS and DNS, with the variable bytes of each, TCP's options among them. -/
def Obligations.DecodingGivesBackIp6TcpUdpTlsDnsFields : Prop :=
  ∀ (enc dec : Instr) (fields : List (Fin 16 × Nat)) (slices : List (Fin 16 × Fin 16)) (s t : State),
    (enc, dec, fields, slices) ∈ [
      (.ip6Enc, .ip6Dec, [(0, 32), (1, 16), (2, 8), (3, 8), (4, 32), (5, 32), (6, 32), (7, 32), (8, 32), (9, 32), (10, 32),
        (11, 32)], [(13, 12)]),
      (.tcpEnc, .tcpDec, [(0, 16), (1, 16), (2, 32), (3, 32), (4, 16), (5, 16), (6, 16), (7, 16)],
        [(10, 11), (13, 12)]),
      (.udpEnc, .udpDec, [(0, 16), (1, 16), (2, 16), (3, 16)], [(13, 12)]),
      (.tlsEnc, .tlsDec, [(0, 8), (1, 16), (2, 16)], [(13, 12)]),
      (.dnsEnc, .dnsDec, [(0, 16), (1, 16), (2, 16), (3, 16), (4, 16), (5, 16)], [(13, 12)])] →
    Config.legalBufBytes s.bufBytes → s.busy = true → exec enc s = .next t → t.busy = false → t.err = .ok →
    ∃ u v, exec .xfer t = .next u ∧ exec dec u = .next v ∧ v.busy = false ∧ v.err = .ok ∧
      (∀ k w, (k, w) ∈ fields → (v.freg k).toNat = (t.freg k).toNat % 2 ^ w) ∧
      ∀ len off, (len, off) ∈ slices → SliceBack len off t v

/-- P1: the same for IPv4, when the IHL describes the options: the fixed fields and the options come back, and the data too unless
the total length cuts it short (43_icmp_ipv4_ipv6.md R167). -/
def Obligations.DecodingGivesBackIp4Fields : Prop :=
  ∀ s t : State, (s.freg 0).toNat % 16 * 4 = 20 + (s.freg 10).toNat →
    Config.legalBufBytes s.bufBytes → s.busy = true → exec .ip4Enc s = .next t → t.busy = false → t.err = .ok →
    ∃ u v, exec .xfer t = .next u ∧ exec .ip4Dec u = .next v ∧ v.busy = false ∧ v.err = .ok ∧
      (∀ k w, (k, w) ∈ ([(0, 8), (1, 8), (2, 16), (3, 16), (4, 16), (5, 8), (6, 8), (7, 16), (8, 32), (9, 32)] :
        List (Fin 16 × Nat)) → (v.freg k).toNat = (t.freg k).toNat % 2 ^ w) ∧
      SliceBack 10 11 t v ∧
      (¬ (20 + (s.freg 10).toNat ≤ (s.freg 2).toNat % 2 ^ 16 ∧ (s.freg 2).toNat % 2 ^ 16 < 20 + s.n) → SliceBack 13 12 t v)
end

