-- ==== Sys2Proof/Laws/Memory.lean ====
section
/-! SUPPORT. The laws of the byte buffers: what a read gives after a write, and that every operation keeps the canonical form. -/

namespace Sys2Proof.Machine

@[simp] theorem Memory.read_nil (a : Nat) : Memory.read [] a = none := rfl

theorem Memory.read_cons (k : Nat) (b : Byte) (m : Memory) (a : Nat) :
    Memory.read ((k, b) :: m) a = if k = a then some b else m.read a := rfl

/-- A read after a write: the written byte there, the old one elsewhere. -/
@[simp] theorem Memory.read_write (m : Memory) (a : Nat) (b : Byte) (x : Nat) :
    (m.write a b).read x = if a = x then some b else m.read x := by
  induction m with
  | nil => rfl
  | cons c m ih =>
    obtain ⟨k, c⟩ := c
    unfold Memory.write
    split
    · rw [Memory.read_cons]
    · split
      · next h => subst h; simp only [Memory.read_cons]; split <;> rfl
      · next h1 h2 =>
        simp only [Memory.read_cons, ih]
        by_cases hk : k = x
        · have : a ≠ x := by omega
          simp [hk, this]
        · simp [hk]

/-- A read after a sequence write: the sequence's byte inside it, the old byte outside. -/
theorem Memory.read_writeSeq (m : Memory) (a : Nat) (s : Bytes) (x : Nat) :
    (m.writeSeq a s).read x = if a ≤ x ∧ x < a + s.length then s[x - a]? else m.read x := by
  induction s generalizing m a with
  | nil => simp [Memory.writeSeq]
  | cons b s ih =>
    rw [Memory.writeSeq, ih, Memory.read_write]
    simp only [List.length_cons]
    by_cases h : a = x
    · subst h; simp
    · by_cases h2 : a + 1 ≤ x ∧ x < a + 1 + s.length
      · have h3 : a ≤ x ∧ x < a + (s.length + 1) := by omega
        have h4 : x - a = (x - (a + 1)) + 1 := by omega
        simp only [h2, h3, and_self, if_true, h4, List.getElem?_cons_succ]
      · have h3 : ¬ (a ≤ x ∧ x < a + (s.length + 1)) := by omega
        rw [if_neg h2, if_neg h3, if_neg h]

/-- The write of an output at byte 0. -/
theorem Memory.read_writeSeq_zero (m : Memory) (s : Bytes) (x : Nat) :
    (m.writeSeq 0 s).read x = if x < s.length then s[x]? else m.read x := by
  simp [Memory.read_writeSeq]

/-- A byte that reads is listed. -/
theorem Memory.mem_of_read {m : Memory} {a : Nat} {b : Byte} (h : m.read a = some b) : (a, b) ∈ m := by
  induction m with
  | nil => cases h
  | cons c m ih =>
    obtain ⟨k, c⟩ := c
    rw [Memory.read_cons] at h
    split at h
    · next hk => subst hk; cases h; exact List.mem_cons_self
    · exact List.mem_cons_of_mem _ (ih h)

/-- The listed indices after a write are the old ones and the written one. -/
theorem Memory.mem_write {m : Memory} {a : Nat} {b : Byte} {c : Host.Cell} (h : c ∈ m.write a b) :
    c = (a, b) ∨ c ∈ m := by
  induction m with
  | nil => simpa [Memory.write] using h
  | cons d m ih =>
    obtain ⟨k, d⟩ := d
    unfold Memory.write at h
    split at h
    · simpa using h
    · split at h
      · rcases List.mem_cons.1 h with h | h
        · exact .inl h
        · exact .inr (List.mem_cons_of_mem _ h)
      · rcases List.mem_cons.1 h with h | h
        · exact .inr (h ▸ List.mem_cons_self)
        · rcases ih h with h | h
          · exact .inl h
          · exact .inr (List.mem_cons_of_mem _ h)

/-- A byte write keeps the canonical form. -/
theorem Memory.wf_write {m : Memory} (a : Nat) (b : Byte) (h : m.wf) : (m.write a b).wf := by
  induction m with
  | nil => simp [Memory.write]
  | cons c m ih =>
    obtain ⟨k, c⟩ := c
    obtain ⟨h1, h2⟩ := List.pairwise_cons.1 h
    unfold Memory.write
    split
    · next hk =>
      refine List.pairwise_cons.2 ⟨fun d hd => ?_, h⟩
      rcases List.mem_cons.1 hd with hd | hd
      · subst hd; exact hk
      · exact Nat.lt_trans hk (h1 d hd)
    · split
      · next hk => subst hk; exact List.pairwise_cons.2 ⟨h1, h2⟩
      · next hk1 hk2 =>
        refine List.pairwise_cons.2 ⟨fun d hd => ?_, ih h2⟩
        rcases Memory.mem_write hd with hd | hd
        · subst hd; simp only; omega
        · exact h1 d hd

/-- A byte write inside the buffer keeps every byte inside it. -/
theorem Memory.within_write {m : Memory} {size a : Nat} (b : Byte) (h : m.within size) (ha : a < size) :
    (m.write a b).within size := by
  intro c hc
  rcases Memory.mem_write hc with hc | hc
  · subst hc; exact ha
  · exact h c hc

/-- A sequence write keeps the canonical form. -/
theorem Memory.wf_writeSeq {m : Memory} (a : Nat) (s : Bytes) (h : m.wf) : (m.writeSeq a s).wf := by
  induction s generalizing m a with
  | nil => exact h
  | cons b s ih => exact ih (a + 1) (Memory.wf_write a b h)

/-- A sequence write inside the buffer keeps every byte inside it. -/
theorem Memory.within_writeSeq {m : Memory} {size : Nat} (a : Nat) (s : Bytes) (h : m.within size)
    (ha : a + s.length ≤ size) : (m.writeSeq a s).within size := by
  induction s generalizing m a with
  | nil => exact h
  | cons b s ih =>
    simp only [List.length_cons] at ha
    exact ih (a + 1) (Memory.within_write b h (by omega)) (by omega)

/-- In canonical form, an index below every listed one does not read. -/
theorem Memory.read_eq_none_of_lt {m : Memory} {a : Nat} (h : ∀ c ∈ m, a < c.1) : m.read a = none := by
  induction m with
  | nil => rfl
  | cons c m ih =>
    obtain ⟨k, c⟩ := c
    have hk := h _ List.mem_cons_self
    rw [Memory.read_cons, if_neg (by simp only at hk; omega)]
    exact ih fun d hd => h d (List.mem_cons_of_mem _ hd)

/-- Equal buffers are equal data: two canonical buffers that read alike are the same list. -/
theorem Memory.ext_of_read {m m' : Memory} (h : m.wf) (h' : m'.wf) (e : ∀ a, m.read a = m'.read a) : m = m' := by
  induction m generalizing m' with
  | nil =>
    cases m' with
    | nil => rfl
    | cons c m' =>
      obtain ⟨k, b⟩ := c
      have := e k
      rw [Memory.read_cons, if_pos rfl, Memory.read_nil] at this
      cases this
  | cons c m ih =>
    obtain ⟨k, b⟩ := c
    obtain ⟨h1, h2⟩ := List.pairwise_cons.1 h
    cases m' with
    | nil =>
      have := e k
      rw [Memory.read_cons, if_pos rfl, Memory.read_nil] at this
      cases this
    | cons c' m' =>
      obtain ⟨k', b'⟩ := c'
      obtain ⟨h1', h2'⟩ := List.pairwise_cons.1 h'
      have hk : k = k' := by
        rcases Nat.lt_trichotomy k k' with hlt | heq | hgt
        · have := e k
          rw [Memory.read_cons, if_pos rfl, Memory.read_cons, if_neg (by omega)] at this
          rw [Memory.read_eq_none_of_lt fun d hd => Nat.lt_trans hlt (h1' d hd)] at this
          cases this
        · exact heq
        · have := e k'
          rw [Memory.read_cons, if_neg (by omega), Memory.read_cons, if_pos rfl] at this
          rw [Memory.read_eq_none_of_lt fun d hd => Nat.lt_trans hgt (h1 d hd)] at this
          cases this
      subst hk
      have hb := e k
      rw [Memory.read_cons, if_pos rfl, Memory.read_cons, if_pos rfl] at hb
      cases hb
      congr 1
      refine ih h2 h2' fun a => ?_
      have := e a
      rw [Memory.read_cons, Memory.read_cons] at this
      split at this
      · next hka =>
        subst hka
        rw [Memory.read_eq_none_of_lt h1, Memory.read_eq_none_of_lt h1']
      · exact this

end Sys2Proof.Machine
end

