-- ==== Sys2Proof/Laws/State.lean ====
section
/-! SUPPORT. One lemma per state field per named update, so that no later proof unfolds a record update. -/

namespace Sys2Proof.Machine

section
variable (s : State) (j : Fin 16) (v : Word)

@[simp] theorem State.setF_cmd : (s.setF j v).cmd = s.cmd := rfl
@[simp] theorem State.setF_busy : (s.setF j v).busy = s.busy := rfl
@[simp] theorem State.setF_done : (s.setF j v).done = s.done := rfl
@[simp] theorem State.setF_err : (s.setF j v).err = s.err := rfl
@[simp] theorem State.setF_result : (s.setF j v).result = s.result := rfl
@[simp] theorem State.setF_csum : (s.setF j v).csum = s.csum := rfl
@[simp] theorem State.setF_ilen : (s.setF j v).ilen = s.ilen := rfl
@[simp] theorem State.setF_olen : (s.setF j v).olen = s.olen := rfl
@[simp] theorem State.setF_bufsz : (s.setF j v).bufsz = s.bufsz := rfl
@[simp] theorem State.setF_f : (s.setF j v).f = s.f.set j v := rfl
@[simp] theorem State.setF_ibuf : (s.setF j v).ibuf = s.ibuf := rfl
@[simp] theorem State.setF_obuf : (s.setF j v).obuf = s.obuf := rfl
@[simp] theorem State.setF_crcrom : (s.setF j v).crcrom = s.crcrom := rfl
@[simp] theorem State.setF_fault : (s.setF j v).fault = s.fault := rfl
@[simp] theorem State.setF_stuckAt : (s.setF j v).stuckAt = s.stuckAt := rfl
@[simp] theorem State.setF_window : (s.setF j v).window = s.window := rfl
@[simp] theorem State.setF_readData : (s.setF j v).readData = s.readData := rfl
@[simp] theorem State.setF_draws : (s.setF j v).draws = s.draws := rfl
@[simp] theorem State.setF_agenda : (s.setF j v).agenda = s.agenda := rfl
@[simp] theorem State.bufBytes_setF : (s.setF j v).bufBytes = s.bufBytes := rfl

end

section
variable (s : State) (c : Code)

@[simp] theorem State.complete_cmd : (s.complete c).cmd = s.cmd := rfl
@[simp] theorem State.complete_busy : (s.complete c).busy = false := rfl
@[simp] theorem State.complete_done : (s.complete c).done = true := rfl
@[simp] theorem State.complete_err : (s.complete c).err = c := rfl
@[simp] theorem State.complete_result : (s.complete c).result = s.result := rfl
@[simp] theorem State.complete_csum : (s.complete c).csum = s.csum := rfl
@[simp] theorem State.complete_ilen : (s.complete c).ilen = s.ilen := rfl
@[simp] theorem State.complete_olen : (s.complete c).olen = s.olen := rfl
@[simp] theorem State.complete_bufsz : (s.complete c).bufsz = s.bufsz := rfl
@[simp] theorem State.complete_f : (s.complete c).f = s.f := rfl
@[simp] theorem State.complete_ibuf : (s.complete c).ibuf = s.ibuf := rfl
@[simp] theorem State.complete_obuf : (s.complete c).obuf = s.obuf := rfl
@[simp] theorem State.complete_crcrom : (s.complete c).crcrom = s.crcrom := rfl
@[simp] theorem State.complete_fault : (s.complete c).fault = s.fault := rfl
@[simp] theorem State.complete_stuckAt : (s.complete c).stuckAt = s.stuckAt := rfl
@[simp] theorem State.complete_window : (s.complete c).window = s.window := rfl
@[simp] theorem State.complete_readData : (s.complete c).readData = s.readData := rfl
@[simp] theorem State.complete_draws : (s.complete c).draws = s.draws := rfl
@[simp] theorem State.complete_agenda : (s.complete c).agenda = s.agenda := rfl
@[simp] theorem State.freg_complete (k : Fin 16) : (s.complete c).freg k = s.freg k := rfl
@[simp] theorem State.bufBytes_complete : (s.complete c).bufBytes = s.bufBytes := rfl

end

section
variable (s : State) (r : ByteRef)

@[simp] theorem State.engineFault_cmd : (s.engineFault r).cmd = s.cmd := rfl
@[simp] theorem State.engineFault_busy : (s.engineFault r).busy = s.busy := rfl
@[simp] theorem State.engineFault_done : (s.engineFault r).done = s.done := rfl
@[simp] theorem State.engineFault_err : (s.engineFault r).err = s.err := rfl
@[simp] theorem State.engineFault_result : (s.engineFault r).result = s.result := rfl
@[simp] theorem State.engineFault_csum : (s.engineFault r).csum = s.csum := rfl
@[simp] theorem State.engineFault_ilen : (s.engineFault r).ilen = s.ilen := rfl
@[simp] theorem State.engineFault_olen : (s.engineFault r).olen = s.olen := rfl
@[simp] theorem State.engineFault_bufsz : (s.engineFault r).bufsz = s.bufsz := rfl
@[simp] theorem State.engineFault_f : (s.engineFault r).f = s.f := rfl
@[simp] theorem State.engineFault_ibuf : (s.engineFault r).ibuf = s.ibuf := rfl
@[simp] theorem State.engineFault_obuf : (s.engineFault r).obuf = s.obuf := rfl
@[simp] theorem State.engineFault_crcrom : (s.engineFault r).crcrom = s.crcrom := rfl
@[simp] theorem State.engineFault_fault : (s.engineFault r).fault = true := rfl
@[simp] theorem State.engineFault_stuckAt : (s.engineFault r).stuckAt = some r := rfl
@[simp] theorem State.engineFault_window : (s.engineFault r).window = s.window := rfl
@[simp] theorem State.engineFault_readData : (s.engineFault r).readData = s.readData := rfl
@[simp] theorem State.engineFault_draws : (s.engineFault r).draws = s.draws := rfl
@[simp] theorem State.engineFault_agenda : (s.engineFault r).agenda = s.agenda := rfl
@[simp] theorem State.freg_engineFault (k : Fin 16) : (s.engineFault r).freg k = s.freg k := rfl
@[simp] theorem State.bufBytes_engineFault : (s.engineFault r).bufBytes = s.bufBytes := rfl

end

section
variable (s : State) (v : Word)

@[simp] theorem State.startCommand_cmd : (s.startCommand v).cmd = v := rfl
@[simp] theorem State.startCommand_busy : (s.startCommand v).busy = true := rfl
@[simp] theorem State.startCommand_done : (s.startCommand v).done = false := rfl
@[simp] theorem State.startCommand_err : (s.startCommand v).err = .ok := rfl
@[simp] theorem State.startCommand_result : (s.startCommand v).result = s.result := rfl
@[simp] theorem State.startCommand_csum : (s.startCommand v).csum = s.csum := rfl
@[simp] theorem State.startCommand_ilen : (s.startCommand v).ilen = s.ilen := rfl
@[simp] theorem State.startCommand_olen : (s.startCommand v).olen = s.olen := rfl
@[simp] theorem State.startCommand_bufsz : (s.startCommand v).bufsz = s.bufsz := rfl
@[simp] theorem State.startCommand_f : (s.startCommand v).f = s.f := rfl
@[simp] theorem State.startCommand_ibuf : (s.startCommand v).ibuf = s.ibuf := rfl
@[simp] theorem State.startCommand_obuf : (s.startCommand v).obuf = s.obuf := rfl
@[simp] theorem State.startCommand_crcrom : (s.startCommand v).crcrom = s.crcrom := rfl
@[simp] theorem State.startCommand_fault : (s.startCommand v).fault = s.fault := rfl
@[simp] theorem State.startCommand_stuckAt : (s.startCommand v).stuckAt = s.stuckAt := rfl
@[simp] theorem State.startCommand_window : (s.startCommand v).window = true := rfl
@[simp] theorem State.startCommand_readData : (s.startCommand v).readData = s.readData := rfl
@[simp] theorem State.startCommand_draws : (s.startCommand v).draws = s.draws := rfl
@[simp] theorem State.startCommand_agenda : (s.startCommand v).agenda = s.agenda := rfl
@[simp] theorem State.freg_startCommand (k : Fin 16) : (s.startCommand v).freg k = s.freg k := rfl
@[simp] theorem State.bufBytes_startCommand : (s.startCommand v).bufBytes = s.bufBytes := rfl

end

section
variable (s : State) (b : Bool)

@[simp] theorem State.setResult_cmd : (s.setResult b).cmd = s.cmd := rfl
@[simp] theorem State.setResult_busy : (s.setResult b).busy = s.busy := rfl
@[simp] theorem State.setResult_done : (s.setResult b).done = s.done := rfl
@[simp] theorem State.setResult_err : (s.setResult b).err = s.err := rfl
@[simp] theorem State.setResult_result : (s.setResult b).result = b := rfl
@[simp] theorem State.setResult_csum : (s.setResult b).csum = s.csum := rfl
@[simp] theorem State.setResult_ilen : (s.setResult b).ilen = s.ilen := rfl
@[simp] theorem State.setResult_olen : (s.setResult b).olen = s.olen := rfl
@[simp] theorem State.setResult_bufsz : (s.setResult b).bufsz = s.bufsz := rfl
@[simp] theorem State.setResult_f : (s.setResult b).f = s.f := rfl
@[simp] theorem State.setResult_ibuf : (s.setResult b).ibuf = s.ibuf := rfl
@[simp] theorem State.setResult_obuf : (s.setResult b).obuf = s.obuf := rfl
@[simp] theorem State.setResult_crcrom : (s.setResult b).crcrom = s.crcrom := rfl
@[simp] theorem State.setResult_fault : (s.setResult b).fault = s.fault := rfl
@[simp] theorem State.setResult_stuckAt : (s.setResult b).stuckAt = s.stuckAt := rfl
@[simp] theorem State.setResult_window : (s.setResult b).window = s.window := rfl
@[simp] theorem State.setResult_readData : (s.setResult b).readData = s.readData := rfl
@[simp] theorem State.setResult_draws : (s.setResult b).draws = s.draws := rfl
@[simp] theorem State.setResult_agenda : (s.setResult b).agenda = s.agenda := rfl
@[simp] theorem State.freg_setResult (k : Fin 16) : (s.setResult b).freg k = s.freg k := rfl
@[simp] theorem State.bufBytes_setResult : (s.setResult b).bufBytes = s.bufBytes := rfl

end

section
variable (s : State) (v : Word)

@[simp] theorem State.setCsum_cmd : (s.setCsum v).cmd = s.cmd := rfl
@[simp] theorem State.setCsum_busy : (s.setCsum v).busy = s.busy := rfl
@[simp] theorem State.setCsum_done : (s.setCsum v).done = s.done := rfl
@[simp] theorem State.setCsum_err : (s.setCsum v).err = s.err := rfl
@[simp] theorem State.setCsum_result : (s.setCsum v).result = s.result := rfl
@[simp] theorem State.setCsum_csum : (s.setCsum v).csum = v := rfl
@[simp] theorem State.setCsum_ilen : (s.setCsum v).ilen = s.ilen := rfl
@[simp] theorem State.setCsum_olen : (s.setCsum v).olen = s.olen := rfl
@[simp] theorem State.setCsum_bufsz : (s.setCsum v).bufsz = s.bufsz := rfl
@[simp] theorem State.setCsum_f : (s.setCsum v).f = s.f := rfl
@[simp] theorem State.setCsum_ibuf : (s.setCsum v).ibuf = s.ibuf := rfl
@[simp] theorem State.setCsum_obuf : (s.setCsum v).obuf = s.obuf := rfl
@[simp] theorem State.setCsum_crcrom : (s.setCsum v).crcrom = s.crcrom := rfl
@[simp] theorem State.setCsum_fault : (s.setCsum v).fault = s.fault := rfl
@[simp] theorem State.setCsum_stuckAt : (s.setCsum v).stuckAt = s.stuckAt := rfl
@[simp] theorem State.setCsum_window : (s.setCsum v).window = s.window := rfl
@[simp] theorem State.setCsum_readData : (s.setCsum v).readData = s.readData := rfl
@[simp] theorem State.setCsum_draws : (s.setCsum v).draws = s.draws := rfl
@[simp] theorem State.setCsum_agenda : (s.setCsum v).agenda = s.agenda := rfl
@[simp] theorem State.freg_setCsum (k : Fin 16) : (s.setCsum v).freg k = s.freg k := rfl
@[simp] theorem State.bufBytes_setCsum : (s.setCsum v).bufBytes = s.bufBytes := rfl

end

section
variable (s : State) (r : Half × Bool)

@[simp] theorem State.setCheck_cmd : (s.setCheck r).cmd = s.cmd := rfl
@[simp] theorem State.setCheck_busy : (s.setCheck r).busy = s.busy := rfl
@[simp] theorem State.setCheck_done : (s.setCheck r).done = s.done := rfl
@[simp] theorem State.setCheck_err : (s.setCheck r).err = s.err := rfl
@[simp] theorem State.setCheck_result : (s.setCheck r).result = r.2 := rfl
@[simp] theorem State.setCheck_csum : (s.setCheck r).csum = r.1.setWidth 32 := rfl
@[simp] theorem State.setCheck_ilen : (s.setCheck r).ilen = s.ilen := rfl
@[simp] theorem State.setCheck_olen : (s.setCheck r).olen = s.olen := rfl
@[simp] theorem State.setCheck_bufsz : (s.setCheck r).bufsz = s.bufsz := rfl
@[simp] theorem State.setCheck_f : (s.setCheck r).f = s.f := rfl
@[simp] theorem State.setCheck_ibuf : (s.setCheck r).ibuf = s.ibuf := rfl
@[simp] theorem State.setCheck_obuf : (s.setCheck r).obuf = s.obuf := rfl
@[simp] theorem State.setCheck_crcrom : (s.setCheck r).crcrom = s.crcrom := rfl
@[simp] theorem State.setCheck_fault : (s.setCheck r).fault = s.fault := rfl
@[simp] theorem State.setCheck_stuckAt : (s.setCheck r).stuckAt = s.stuckAt := rfl
@[simp] theorem State.setCheck_window : (s.setCheck r).window = s.window := rfl
@[simp] theorem State.setCheck_readData : (s.setCheck r).readData = s.readData := rfl
@[simp] theorem State.setCheck_draws : (s.setCheck r).draws = s.draws := rfl
@[simp] theorem State.setCheck_agenda : (s.setCheck r).agenda = s.agenda := rfl
@[simp] theorem State.freg_setCheck (k : Fin 16) : (s.setCheck r).freg k = s.freg k := rfl
@[simp] theorem State.bufBytes_setCheck : (s.setCheck r).bufBytes = s.bufBytes := rfl

end

section
variable (s : State) 

@[simp] theorem State.blockReset_cmd : (s.blockReset).cmd = 0 := rfl
@[simp] theorem State.blockReset_busy : (s.blockReset).busy = false := rfl
@[simp] theorem State.blockReset_done : (s.blockReset).done = false := rfl
@[simp] theorem State.blockReset_err : (s.blockReset).err = .ok := rfl
@[simp] theorem State.blockReset_result : (s.blockReset).result = false := rfl
@[simp] theorem State.blockReset_csum : (s.blockReset).csum = 0 := rfl
@[simp] theorem State.blockReset_ilen : (s.blockReset).ilen = 0 := rfl
@[simp] theorem State.blockReset_olen : (s.blockReset).olen = 0 := rfl
@[simp] theorem State.blockReset_bufsz : (s.blockReset).bufsz = s.bufsz := rfl
@[simp] theorem State.blockReset_f : (s.blockReset).f = Vector.replicate 16 0 := rfl
@[simp] theorem State.blockReset_ibuf : (s.blockReset).ibuf = [] := rfl
@[simp] theorem State.blockReset_obuf : (s.blockReset).obuf = [] := rfl
@[simp] theorem State.blockReset_crcrom : (s.blockReset).crcrom = s.crcrom := rfl
@[simp] theorem State.blockReset_fault : (s.blockReset).fault = s.fault := rfl
@[simp] theorem State.blockReset_stuckAt : (s.blockReset).stuckAt = none := rfl
@[simp] theorem State.blockReset_window : (s.blockReset).window = false := rfl
@[simp] theorem State.blockReset_readData : (s.blockReset).readData = s.readData := rfl
@[simp] theorem State.blockReset_draws : (s.blockReset).draws = s.draws := rfl
@[simp] theorem State.blockReset_agenda : (s.blockReset).agenda = s.agenda := rfl
@[simp] theorem State.bufBytes_blockReset : (s.blockReset).bufBytes = s.bufBytes := rfl

end

/-- A field-register write changes that register alone (10_state.md R33). -/
@[simp] theorem State.freg_setF (s : State) (j k : Fin 16) (v : Word) :
    (s.setF j v).freg k = if j = k then v else s.freg k := by
  simp [State.freg, State.setF, Vector.getElem_set, Fin.ext_iff]

/-- Reset clears every field register (70_reset_and_hazards.md R260). -/
@[simp] theorem State.freg_blockReset (s : State) (k : Fin 16) : s.blockReset.freg k = 0 := by
  simp [State.freg]

section
variable (s : State) (ws : List (Fin 16 × Word))

@[simp] theorem State.setFs_nil : s.setFs [] = s := rfl
@[simp] theorem State.setFs_cons (k : Fin 16) (v : Word) : s.setFs ((k, v) :: ws) = (s.setF k v).setFs ws := rfl

@[simp] theorem State.setFs_cmd : (s.setFs ws).cmd = s.cmd := by
  induction ws generalizing s with
  | nil => rfl
  | cons w ws ih => exact ih (s.setF w.1 w.2)
@[simp] theorem State.setFs_busy : (s.setFs ws).busy = s.busy := by
  induction ws generalizing s with
  | nil => rfl
  | cons w ws ih => exact ih (s.setF w.1 w.2)
@[simp] theorem State.setFs_done : (s.setFs ws).done = s.done := by
  induction ws generalizing s with
  | nil => rfl
  | cons w ws ih => exact ih (s.setF w.1 w.2)
@[simp] theorem State.setFs_err : (s.setFs ws).err = s.err := by
  induction ws generalizing s with
  | nil => rfl
  | cons w ws ih => exact ih (s.setF w.1 w.2)
@[simp] theorem State.setFs_result : (s.setFs ws).result = s.result := by
  induction ws generalizing s with
  | nil => rfl
  | cons w ws ih => exact ih (s.setF w.1 w.2)
@[simp] theorem State.setFs_csum : (s.setFs ws).csum = s.csum := by
  induction ws generalizing s with
  | nil => rfl
  | cons w ws ih => exact ih (s.setF w.1 w.2)
@[simp] theorem State.setFs_ilen : (s.setFs ws).ilen = s.ilen := by
  induction ws generalizing s with
  | nil => rfl
  | cons w ws ih => exact ih (s.setF w.1 w.2)
@[simp] theorem State.setFs_olen : (s.setFs ws).olen = s.olen := by
  induction ws generalizing s with
  | nil => rfl
  | cons w ws ih => exact ih (s.setF w.1 w.2)
@[simp] theorem State.setFs_bufsz : (s.setFs ws).bufsz = s.bufsz := by
  induction ws generalizing s with
  | nil => rfl
  | cons w ws ih => exact ih (s.setF w.1 w.2)
@[simp] theorem State.setFs_ibuf : (s.setFs ws).ibuf = s.ibuf := by
  induction ws generalizing s with
  | nil => rfl
  | cons w ws ih => exact ih (s.setF w.1 w.2)
@[simp] theorem State.setFs_obuf : (s.setFs ws).obuf = s.obuf := by
  induction ws generalizing s with
  | nil => rfl
  | cons w ws ih => exact ih (s.setF w.1 w.2)
@[simp] theorem State.setFs_crcrom : (s.setFs ws).crcrom = s.crcrom := by
  induction ws generalizing s with
  | nil => rfl
  | cons w ws ih => exact ih (s.setF w.1 w.2)
@[simp] theorem State.setFs_fault : (s.setFs ws).fault = s.fault := by
  induction ws generalizing s with
  | nil => rfl
  | cons w ws ih => exact ih (s.setF w.1 w.2)
@[simp] theorem State.setFs_stuckAt : (s.setFs ws).stuckAt = s.stuckAt := by
  induction ws generalizing s with
  | nil => rfl
  | cons w ws ih => exact ih (s.setF w.1 w.2)
@[simp] theorem State.setFs_window : (s.setFs ws).window = s.window := by
  induction ws generalizing s with
  | nil => rfl
  | cons w ws ih => exact ih (s.setF w.1 w.2)
@[simp] theorem State.setFs_readData : (s.setFs ws).readData = s.readData := by
  induction ws generalizing s with
  | nil => rfl
  | cons w ws ih => exact ih (s.setF w.1 w.2)
@[simp] theorem State.setFs_draws : (s.setFs ws).draws = s.draws := by
  induction ws generalizing s with
  | nil => rfl
  | cons w ws ih => exact ih (s.setF w.1 w.2)
@[simp] theorem State.setFs_agenda : (s.setFs ws).agenda = s.agenda := by
  induction ws generalizing s with
  | nil => rfl
  | cons w ws ih => exact ih (s.setF w.1 w.2)

@[simp] theorem State.bufBytes_setFs : (s.setFs ws).bufBytes = s.bufBytes := by simp [State.bufBytes]

/-- Several writes and then several more. -/
theorem State.setFs_append (us : List (Fin 16 × Word)) : s.setFs (ws ++ us) = (s.setFs ws).setFs us := by
  induction ws generalizing s with
  | nil => rfl
  | cons w ws ih => exact ih (s.setF w.1 w.2)

/-- A register no write names keeps its value. -/
theorem State.freg_setFs_of_notMem (k : Fin 16) (h : k ∉ ws.map Prod.fst) : (s.setFs ws).freg k = s.freg k := by
  induction ws generalizing s with
  | nil => rfl
  | cons w ws ih =>
    simp only [List.map_cons, List.mem_cons, not_or] at h
    rw [State.setFs_cons, ih _ h.2, State.freg_setF, if_neg (Ne.symm h.1)]

/-- The registers after several writes to distinct registers: the written value, else the old one. -/
theorem State.freg_setFs (hd : (ws.map Prod.fst).Nodup) (k : Fin 16) :
    (s.setFs ws).freg k = (ws.lookup k).getD (s.freg k) := by
  induction ws generalizing s with
  | nil => rfl
  | cons w ws ih =>
    obtain ⟨j, v⟩ := w
    simp only [List.map_cons, List.nodup_cons] at hd
    rw [State.setFs_cons]
    by_cases hk : k = j
    · subst hk
      rw [State.freg_setFs_of_notMem _ _ _ hd.1]
      simp
    · rw [ih _ hd.2, State.freg_setF, if_neg (Ne.symm hk)]
      have : (k == j) = false := by simpa using hk
      simp [List.lookup, this]

end

end Sys2Proof.Machine
end

