-- ==== Sys2Proof/Laws/Ops.lean ====
section
/-! SUPPORT. One lemma per shared operation that says once everything it can do. -/

namespace Sys2Proof.Machine

/-- The three ends of a command that began in `s` (10_state.md R26, 60_exceptions.md R241, R244). -/
theorem finish_cases {s : State} {r : Cmd State} {t : State} (h : finish s r = .next t) :
    (∃ u, r = .ok u ∧ t = u.complete .ok) ∨
    (∃ e, r = .error (.raise e) ∧ t = s.complete (errorCode e)) ∨
    (∃ b, r = .error (.unwritten b) ∧ t = s.engineFault b) := by
  match r, h with
  | .ok u, h => exact .inl ⟨u, rfl, by cases h; rfl⟩
  | .error (.raise e), h => exact .inr (.inl ⟨e, rfl, by cases h; rfl⟩)
  | .error (.unwritten b), h => exact .inr (.inr ⟨b, rfl, by cases h; rfl⟩)

@[simp] theorem finish_ok (s u : State) : finish s (.ok u) = .next (u.complete .ok) := rfl
@[simp] theorem finish_raise (s : State) (e : Error) :
    finish s (.error (.raise e)) = .next (s.complete (errorCode e)) := rfl
@[simp] theorem finish_unwritten (s : State) (b : ByteRef) :
    finish s (.error (.unwritten b)) = .next (s.engineFault b) := rfl

@[simp] theorem errorCode_ne_ok (e : Error) : errorCode e ≠ .ok := by cases e <;> decide
@[simp] theorem errorCode_ne_invalidFormat (e : Error) : errorCode e ≠ .invalidFormat := by cases e <;> decide

/-- A command always ends in a next state: nothing stops the machine (60_exceptions.md R240). -/
theorem finish_next (s : State) (r : Cmd State) : ∃ t, finish s r = .next t := by
  match r with
  | .ok u => exact ⟨_, rfl⟩
  | .error (.raise e) => exact ⟨_, rfl⟩
  | .error (.unwritten b) => exact ⟨_, rfl⟩

section
variable {α β : Type}

@[simp] theorem cmd_ok_bind (a : α) (k : α → Cmd β) : ((Except.ok a : Cmd α) >>= k) = k a := rfl
@[simp] theorem cmd_error_bind (e : Stop) (k : α → Cmd β) : ((Except.error e : Cmd α) >>= k) = .error e := rfl
@[simp] theorem cmd_pure (a : α) : (pure a : Cmd α) = .ok a := rfl

/-- Taking a successful sequence apart. -/
theorem cmd_bind_ok {r : Cmd α} {k : α → Cmd β} {b : β} (h : (r >>= k) = .ok b) : ∃ a, r = .ok a ∧ k a = .ok b := by
  match r, h with
  | .ok a, h => exact ⟨a, rfl, h⟩

/-- Taking a stopped sequence apart. -/
theorem cmd_bind_error {r : Cmd α} {k : α → Cmd β} {e : Stop} (h : (r >>= k) = .error e) :
    r = .error e ∨ ∃ a, r = .ok a ∧ k a = .error e := by
  match r, h with
  | .ok a, h => exact .inr ⟨a, rfl, h⟩
  | .error e', h => cases h; exact .inl rfl

end

theorem ensure_pos {p : Prop} [Decidable p] (h : p) (e : Error) : ensure p e = .ok () := if_pos h
theorem ensure_neg {p : Prop} [Decidable p] (h : ¬ p) (e : Error) : ensure p e = .error (.raise e) := if_neg h
theorem ensure_ok {p : Prop} [Decidable p] {e : Error} {u : Unit} (h : ensure p e = .ok u) : p := by
  by_contra hp
  rw [ensure_neg hp] at h
  cases h
theorem ensure_error {p : Prop} [Decidable p] {e : Error} {x : Stop} (h : ensure p e = .error x) :
    ¬ p ∧ x = .raise e := by
  by_cases hp : p
  · rw [ensure_pos hp] at h; cases h
  · rw [ensure_neg hp] at h; cases h; exact ⟨hp, rfl⟩

/-- `check_ilen()` with the length inside the buffer (30_encoding.md R90). -/
theorem checkIlen_ok {s : State} (h : s.ilen.toNat ≤ s.bufBytes) : checkIlen s = .ok s.ilen.toNat := by
  simp [checkIlen, ensure_pos h]

/-- `check_ilen()` with the length above the buffer (R90). -/
theorem checkIlen_badArg {s : State} (h : s.bufBytes < s.ilen.toNat) : checkIlen s = .error (.raise .badArg) := by
  simp [checkIlen, ensure_neg (Nat.not_le.2 h)]

/-- What `check_ilen()` answers, it has checked. -/
theorem checkIlen_inv {s : State} {n : Nat} (h : checkIlen s = .ok n) : n = s.ilen.toNat ∧ n ≤ s.bufBytes := by
  obtain ⟨_, h1, h2⟩ := cmd_bind_ok h
  cases h2
  exact ⟨rfl, ensure_ok h1⟩

/-- MemRead of written bytes gives them (00_scope.md R9). -/
theorem memRead_ok {m : Memory} {ref : Nat → ByteRef} {a : Nat} {d : Bytes}
    (h : ∀ i, i < d.length → m.read (a + i) = d[i]?) : memRead m ref a d.length = .ok d := by
  induction d generalizing a with
  | nil => rfl
  | cons b d ih =>
    have h0 := h 0 (by simp)
    simp only [Nat.add_zero, List.getElem?_cons_zero] at h0
    have ht : memRead m ref (a + 1) d.length = .ok d := ih fun i hi => by
      have := h (i + 1) (by simpa using hi)
      simpa [Nat.add_assoc, Nat.add_comm 1] using this
    simp [memRead, h0, ht, Except.map]

/-- What MemRead answers: as many bytes as asked for, each the byte that reads there. -/
theorem memRead_inv {m : Memory} {ref : Nat → ByteRef} {a n : Nat} {d : Bytes} (h : memRead m ref a n = .ok d) :
    d.length = n ∧ ∀ i, i < n → m.read (a + i) = d[i]? := by
  induction n generalizing a d with
  | zero => cases h; simp
  | succ n ih =>
    unfold memRead at h
    split at h
    · cases h
    · next b hb =>
      match hr : memRead m ref (a + 1) n, h with
      | .ok t, h =>
        cases h
        obtain ⟨h1, h2⟩ := ih hr
        refine ⟨by simp [h1], fun i hi => ?_⟩
        match i with
        | 0 => simpa using hb
        | i + 1 =>
          have := h2 i (by omega)
          simpa [Nat.add_assoc, Nat.add_comm 1] using this
      | .error e, h => cases h

/-- MemRead stops at the first unwritten byte, and only there (10_state.md R38, 60_exceptions.md R244). -/
theorem memRead_unwritten {m : Memory} {ref : Nat → ByteRef} {a n k : Nat} (h1 : a ≤ k) (h2 : k < a + n)
    (h3 : m.read k = none) (h4 : ∀ j, j < k → a ≤ j → m.read j ≠ none) :
    memRead m ref a n = .error (.unwritten (ref k)) := by
  induction n generalizing a with
  | zero => omega
  | succ n ih =>
    by_cases hk : a = k
    · subst hk; simp [memRead, h3]
    · have hlt : a < k := by omega
      obtain ⟨b, hb⟩ := Option.ne_none_iff_exists'.1 (h4 a hlt (Nat.le_refl a))
      have := ih (a := a + 1) hlt (by omega) fun j hj hj' => h4 j hj (by omega)
      simp [memRead, hb, this, Except.map]

/-- How MemRead stops. -/
theorem memRead_error {m : Memory} {ref : Nat → ByteRef} {a n : Nat} {e : Stop} (h : memRead m ref a n = .error e) :
    ∃ k, a ≤ k ∧ k < a + n ∧ m.read k = none ∧ e = .unwritten (ref k) ∧ ∀ j, j < k → a ≤ j → m.read j ≠ none := by
  induction n generalizing a with
  | zero => cases h
  | succ n ih =>
    unfold memRead at h
    split at h
    · next hn => cases h; exact ⟨a, Nat.le_refl a, by omega, hn, rfl, fun j hj hj' => by omega⟩
    · next b hb =>
      match hr : memRead m ref (a + 1) n, h with
      | .ok t, h => cases h
      | .error e', h =>
        cases h
        obtain ⟨k, k1, k2, k3, k4, k5⟩ := ih hr
        refine ⟨k, by omega, by omega, k3, k4, fun j hj hj' => ?_⟩
        by_cases hja : j = a
        · subst hja; simp [hb]
        · exact k5 j hj (by omega)

/-- `emit` of an output that fits (30_encoding.md R91). -/
theorem emit_ok {s : State} {out : Bytes} (h : out.length ≤ s.bufBytes) :
    emit s out = .ok { s with obuf := s.obuf.writeSeq 0 out, olen := BitVec.ofNat 16 out.length } := by
  simp [emit, ensure_pos h]

/-- `emit` of an output that does not fit (R91). -/
theorem emit_badArg {s : State} {out : Bytes} (h : s.bufBytes < out.length) :
    emit s out = .error (.raise .badArg) := by
  simp [emit, ensure_neg (Nat.not_le.2 h)]

/-- What `emit` answers: the output fits, and only OBUF and OLEN change. -/
theorem emit_inv {s t : State} {out : Bytes} (h : emit s out = .ok t) :
    out.length ≤ s.bufBytes ∧
      t = { s with obuf := s.obuf.writeSeq 0 out, olen := BitVec.ofNat 16 out.length } := by
  obtain ⟨_, h1, h2⟩ := cmd_bind_ok h
  cases h2
  exact ⟨ensure_ok h1, rfl⟩

/-- How `emit` stops. -/
theorem emit_error {s : State} {out : Bytes} {e : Stop} (h : emit s out = .error e) : e = .raise .badArg := by
  rcases cmd_bind_error h with h | ⟨_, _, h⟩
  · exact (ensure_error h).2
  · cases h

/-- What `check_opt` accepts (30_encoding.md R92). -/
theorem checkOpt_ok {o n : Nat} (h : o ≤ 40 ∧ o % 4 = 0 ∧ o ≤ n) : checkOpt o n = .ok () := ensure_pos h _

/-- What `check_opt` raises (R92). -/
theorem checkOpt_badArg {o n : Nat} (h : ¬ (o ≤ 40 ∧ o % 4 = 0 ∧ o ≤ n)) :
    checkOpt o n = .error (.raise .badArg) := ensure_neg h _

end Sys2Proof.Machine
end

