-- ==== Sys2Proof/Laws/Bus.lean ====
section
/-! SUPPORT. What a host access can do (20_memory.md R51 to R58, 70_reset_and_hazards.md R262). -/

namespace Sys2Proof.Machine

/-- The three ways a host access gives a next state: a hazard violation, a read, a write. -/
theorem hostAccess_cases {off : Nat} {w : Width} {op : AccessOp} {s t : State} (h : hostAccess off w op s = .next t) :
    off < addressSpaceEnd ∧ meaningful off w = true ∧
    ((s.hazardOpen = true ∧ allowedInWindow off w op = false ∧ t = hazardViolation s off w op) ∨
     ((s.hazardOpen = false ∨ allowedInWindow off w op = true) ∧
      ((op = .read ∧ t = hostRead s off w) ∨ ∃ v, op = .write v ∧ t = hostWrite s off w v))) := by
  unfold hostAccess at h
  split at h
  · cases h
  · next h1 =>
    split at h
    · cases h
    · next h2 =>
      refine ⟨Nat.not_le.1 h1, by simpa using h2, ?_⟩
      split at h
      · next h3 =>
        simp only [Bool.and_eq_true, Bool.not_eq_true'] at h3
        cases h
        exact .inl ⟨h3.1, h3.2, rfl⟩
      · next h3 =>
        have h4 : s.hazardOpen = false ∨ allowedInWindow off w op = true := by
          cases hb : s.hazardOpen <;> simp_all
        refine .inr ⟨h4, ?_⟩
        cases op with
        | read => cases h; exact .inl ⟨rfl, rfl⟩
        | write v => cases h; exact .inr ⟨v, rfl, rfl⟩

/-- A host read changes no architectural state: only the value returned, the draw counter, and, for a poll of STATUS, the
busy window (20_memory.md R58). -/
theorem hostRead_eq (s : State) (off : Nat) (w : Width) :
    hostRead s off w = { s with
      readData := (hostRead s off w).readData, draws := (hostRead s off w).draws, window := (hostRead s off w).window } := by
  unfold hostRead hostBufferRead
  cases target off <;> cases w <;> rfl

/-- The window after a host read: a poll of STATUS while no command runs closes it (R262). -/
theorem hostRead_window (s : State) (off : Nat) (w : Width) :
    (hostRead s off w).window = (s.window && (target off != .status || s.busy)) := by
  unfold hostRead hostBufferRead
  cases target off <;> cases w <;> simp

/-- A hazard violation changes only FAULT, the value returned and the draw counter (R262), or is a CMD write while BUSY = 0, which
sets FAULT and starts its command (R58; log 9). -/
theorem hazardViolation_cases (s : State) (off : Nat) (w : Width) (op : AccessOp) :
    ((s.busy = true ∨ target off ≠ .cmd ∨ op = .read) ∧ hazardViolation s off w op = { s with
      fault := true, readData := (hazardViolation s off w op).readData, draws := (hazardViolation s off w op).draws }) ∨
    (target off = .cmd ∧ s.busy = false ∧ ∃ v, op = .write v ∧
      hazardViolation s off w op = { s with fault := true }.startCommand v) := by
  cases op with
  | read => cases w <;> exact .inl ⟨.inr (.inr rfl), rfl⟩
  | write v =>
    unfold hazardViolation unpolledCmdWrite
    by_cases h : target off = .cmd ∧ s.busy = false
    · exact .inr ⟨h.1, h.2, v, rfl, by simp [h]⟩
    · refine .inl ⟨?_, by simp [h]⟩
      cases hb : s.busy with
      | true => exact .inl rfl
      | false => exact .inr (.inl fun ht => h ⟨ht, hb⟩)

/-- Every hazard violation sets FAULT (R262). -/
theorem hazardViolation_fault (s : State) (off : Nat) (w : Width) (op : AccessOp) :
    (hazardViolation s off w op).fault = true := by
  obtain ⟨-, h⟩ | ⟨-, -, v, -, h⟩ := hazardViolation_cases s off w op
  · rw [h]
  · rw [h, State.startCommand_fault]

/-- The one write with a side effect beyond the addressed place is the CMD write (R58); the others change ILEN, one field
register, IBUF, or nothing. -/
theorem hostWrite_cases (s : State) (off : Nat) (w : Width) (v : Word) :
    (target off = .cmd ∧ hostWrite s off w v = s.startCommand v) ∨
    (target off = .ilen ∧ hostWrite s off w v = { s with ilen := v.setWidth 16 }) ∨
    (∃ k, target off = .field k ∧ hostWrite s off w v = s.setF k v) ∨
    (∃ i, target off = .ibuf i ∧ hostWrite s off w v = hostIbufWrite s w i v) ∨ hostWrite s off w v = s := by
  unfold hostWrite
  cases target off with
  | cmd => exact .inl ⟨rfl, rfl⟩
  | ilen => exact .inr (.inl ⟨rfl, rfl⟩)
  | field k => exact .inr (.inr (.inl ⟨k, rfl, rfl⟩))
  | ibuf i => exact .inr (.inr (.inr (.inl ⟨i, rfl, rfl⟩)))
  | _ => exact .inr (.inr (.inr (.inr rfl)))

/-- A host write of the IBUF window changes IBUF alone. -/
theorem hostIbufWrite_eq (s : State) (w : Width) (i : Nat) (v : Word) :
    hostIbufWrite s w i v = { s with ibuf := (hostIbufWrite s w i v).ibuf } := by
  cases w <;> rfl

/-- A host poke keeps the canonical form. -/
theorem wf_ibufPoke {m : Memory} (size i : Nat) (b : Byte) (h : m.wf) : (ibufPoke size m i b).wf := by
  unfold ibufPoke
  split
  · exact h
  · exact Memory.wf_write i b h

/-- A host poke keeps every byte inside the buffer (20_memory.md R54). -/
theorem within_ibufPoke {m : Memory} {size : Nat} (i : Nat) (b : Byte) (h : m.within size) :
    (ibufPoke size m i b).within size := by
  unfold ibufPoke
  split
  · exact h
  · next hi => exact Memory.within_write b h (Nat.not_le.1 hi)

/-- Reading after a host poke. -/
theorem read_ibufPoke (m : Memory) (size i : Nat) (b : Byte) (x : Nat) :
    (ibufPoke size m i b).read x = if i = x ∧ i < size then some b else m.read x := by
  unfold ibufPoke
  split
  · next h => rw [if_neg (by omega)]
  · next h =>
    rw [Memory.read_write]
    by_cases hx : i = x
    · rw [if_pos hx, if_pos ⟨hx, Nat.not_le.1 h⟩]
    · rw [if_neg hx, if_neg (fun c => hx c.1)]

/-- A host write of the IBUF window keeps the canonical form and the bound. -/
theorem wf_hostIbufWrite {s : State} (w : Width) (i : Nat) (v : Word) (h : s.ibuf.wf) (h' : s.ibuf.within s.bufBytes) :
    (hostIbufWrite s w i v).ibuf.wf ∧ (hostIbufWrite s w i v).ibuf.within s.bufBytes := by
  cases w with
  | word =>
    exact ⟨wf_ibufPoke _ _ _ (wf_ibufPoke _ _ _ (wf_ibufPoke _ _ _ (wf_ibufPoke _ _ _ h))),
      within_ibufPoke _ _ (within_ibufPoke _ _ (within_ibufPoke _ _ (within_ibufPoke _ _ h')))⟩
  | byte => exact ⟨wf_ibufPoke _ _ _ h, within_ibufPoke _ _ h'⟩
  | half => exact ⟨wf_ibufPoke _ _ _ h, within_ibufPoke _ _ h'⟩

end Sys2Proof.Machine
end

