-- ==== Sys2Proof/Laws/Bytes.lean ====
section
/-! SUPPORT. Lengths and values of byte sequences (00_scope.md R8), and the bounds of the checksum's carry fold. -/

namespace Sys2Proof.Machine

@[simp] theorem be_length (n v : Nat) : (be n v).length = n := by
  induction n with
  | zero => rfl
  | succ n ih => simp [be, ih]

@[simp] theorem zeros_length (n : Nat) : (zeros n).length = n := List.length_replicate

@[simp] theorem State.beF_length (s : State) (n : Nat) (k : Fin 16) : (s.beF n k).length = n := be_length _ _

@[simp] theorem seg_length (s : Bytes) (a b : Nat) : (seg s a b).length = min b s.length - a := by simp [seg]

/-- `BE(be_N(v)) = trunc_{8N}(v)` (R8). -/
theorem beVal_be (n v : Nat) : beVal (be n v) = v % 256 ^ n := by
  induction n generalizing v with
  | zero => simp [be, beVal, Nat.mod_one]
  | succ n ih =>
    have h : v % 256 ^ (n + 1) = v % 256 ^ n + 256 ^ n * (v / 256 ^ n % 256) := by rw [Nat.pow_succ, Nat.mod_mul]
    have h8 : (BitVec.ofNat 8 (v / 256 ^ n)).toNat = v / 256 ^ n % 256 := BitVec.toNat_ofNat ..
    rw [be, beVal, ih, be_length, h8, h, Nat.mul_comm, Nat.add_comm]

/-- A sequence's value is below 256 to its length (R8). -/
theorem beVal_lt (s : Bytes) : beVal s < 256 ^ s.length := by
  induction s with
  | nil => simp [beVal]
  | cons b s ih =>
    have hb : b.toNat ≤ 255 := Nat.le_of_lt_succ b.isLt
    rw [beVal, List.length_cons, Nat.pow_succ]
    calc b.toNat * 256 ^ s.length + beVal s < b.toNat * 256 ^ s.length + 256 ^ s.length := by omega
      _ ≤ 255 * 256 ^ s.length + 256 ^ s.length := by gcongr
      _ = 256 ^ s.length * 256 := by ring

/-- The pseudo-header has 12 bytes (40_checksum_engine.md R103). -/
@[simp] theorem pseudo_length (src dst : Word) (proto length : Nat) : (pseudo src dst proto length).length = 12 := by
  simp [pseudo]

/-- The parts of a sequence around its middle part, with another middle part in its place (30_encoding.md R93 and the ENC rules
that insert a checksum). -/
theorem seg_patch {a m z : Bytes} {i j k : Nat} (b : Bytes) (hi : a.length = i) (hj : (a ++ m).length = j)
    (hk : (a ++ m ++ z).length = k) : seg (a ++ m ++ z) 0 i ++ b ++ seg (a ++ m ++ z) j k = a ++ b ++ z := by
  have h1 : seg (a ++ m ++ z) 0 i = a := by subst hi; simp [seg]
  have h2 : seg (a ++ m ++ z) j k = z := by subst hj hk; rw [seg, List.take_length, List.drop_left]
  rw [h1, h2]

/-- One turn of the carry fold: `sum % 2^16 + sum / 2^16` is congruent to `sum` modulo 65535. -/
theorem foldStep_mod (sum : Nat) : (sum % 0x10000 + sum / 0x10000) % 65535 = sum % 65535 := by omega

end Sys2Proof.Machine
end

