-- ==== Sys2Proof/Laws/Flags.lean ====
section
/-! SUPPORT. The fields of the STATUS word (10_state.md R22) and the number of each outcome code (R27). -/

namespace Sys2Proof.Machine

/-- STATUS[0] is BUSY (R22). -/
@[simp] theorem State.statusWord_busy (s : State) : s.statusWord.getLsbD 0 = s.busy := by
  unfold State.statusWord
  generalize s.busy = b, s.done = d, s.err = e
  cases b <;> cases d <;> cases e <;> decide

/-- STATUS[1] is DONE (R22). -/
@[simp] theorem State.statusWord_done (s : State) : s.statusWord.getLsbD 1 = s.done := by
  unfold State.statusWord
  generalize s.busy = b, s.done = d, s.err = e
  cases b <;> cases d <;> cases e <;> decide

/-- STATUS[7:4] is ERR (R22). -/
@[simp] theorem State.statusWord_err (s : State) : s.statusWord.extractLsb' 4 4 = codeBits s.err := by
  unfold State.statusWord
  generalize s.busy = b, s.done = d, s.err = e
  cases b <;> cases d <;> cases e <;> decide

/-- Distinct outcome codes have distinct numbers (R27). -/
theorem codeBits_injective {c d : Code} (h : codeBits c = codeBits d) : c = d := by
  cases c <;> cases d <;> first | rfl | (revert h; decide)

end Sys2Proof.Machine
end

