-- ==== Sys2Proof/Laws/Leaves.lean ====
section
/-! SUPPORT. What each way of ending a command leaves (30_encoding.md R89, 60_exceptions.md R241), and the reads of a command in
the claims' terms. -/

namespace Sys2Proof.Machine

/-- A completion without any other write. -/
theorem leaves_complete (s : State) (c : Code) : Leaves c {} s (s.complete c) := by
  constructor <;> simp

/-- A completion that writes field registers, each at most once. -/
theorem leaves_regs (s : State) (ws : List (Fin 16 × Word)) (hd : (ws.map Prod.fst).Nodup) :
    Leaves .ok { regs := ws } s ((s.setFs ws).complete .ok) := by
  constructor <;> simp [State.freg_setFs _ _ hd]

/-- A completion of an ENC command: an output and field registers, each at most once. -/
theorem leaves_out (s : State) (out : Bytes) (ws : List (Fin 16 × Word)) (hd : (ws.map Prod.fst).Nodup) :
    Leaves .ok { out := some out, regs := ws } s
      ((State.setFs { s with obuf := s.obuf.writeSeq 0 out, olen := BitVec.ofNat 16 out.length } ws).complete .ok) := by
  constructor <;> simp [State.freg_setFs _ _ hd, Memory.read_writeSeq_zero]
  intro k
  rfl

/-- A completion that writes CSUM. -/
theorem leaves_csum (s : State) (v : Word) : Leaves .ok { csum := some v } s ((s.setCsum v).complete .ok) := by
  constructor <;> simp

/-- A completion that writes RESULT. -/
theorem leaves_result (s : State) (b : Bool) : Leaves .ok { result := some b } s ((s.setResult b).complete .ok) := by
  constructor <;> simp

/-- A completion that writes CSUM and RESULT. -/
theorem leaves_csum_result (s : State) (v : Word) (b : Bool) :
    Leaves .ok { csum := some v, result := some b } s (((s.setCsum v).setResult b).complete .ok) := by
  constructor <;> simp

/-- MemRead of bytes IBUF holds. -/
theorem readIbuf_holds {s : State} {a n : Nat} {d : Bytes} (h : IbufHolds s a d) (hn : d.length = n) :
    readIbuf s a n = .ok d := by
  subst hn
  exact memRead_ok h

/-- MemRead stops at the first unwritten byte of what it reads. -/
theorem readIbuf_first {s : State} {a b k : Nat} (h : FirstUnwritten s a b k) :
    readIbuf s a (b - a) = .error (.unwritten (.ibuf k)) :=
  memRead_unwritten h.1 (by have := h.1; have := h.2.1; omega) h.2.2.1 h.2.2.2

/-- `check_ilen()` first: BadArg when n > BUF_BYTES (30_encoding.md R90). -/
theorem fails_of_ilen {i : Instr} {s : State} {k : Nat → Cmd State} (he : exec i s = finish s (checkIlen s >>= k))
    (h : s.bufBytes < s.n) : Fails i s .badArg :=
  ⟨s.complete .badArg, by rw [he, checkIlen_badArg h]; rfl, leaves_complete s _⟩

/-- A command whose pseudocode raises (60_exceptions.md R241). -/
theorem fails_of_raise {i : Instr} {s : State} {r : Cmd State} {e : Error} (he : exec i s = finish s r)
    (h : r = .error (.raise e)) : Fails i s (errorCode e) :=
  ⟨s.complete (errorCode e), by rw [he, h]; rfl, leaves_complete s _⟩

/-- A command whose pseudocode meets an unwritten IBUF byte (60_exceptions.md R244). -/
theorem engineFaults_of {i : Instr} {s : State} {k : Nat} {r : Cmd State} (he : exec i s = finish s r)
    (h : r = .error (.unwritten (.ibuf k))) : EngineFaultsAt i s k := by
  
  unfold EngineFaultsAt
  rw [he, h]
  rfl

/-- A command whose pseudocode ends (10_state.md R26). -/
theorem completes_of {i : Instr} {s t : State} {e : Effects} {r : Cmd State} (he : exec i s = finish s r)
    (h : r = .ok t) (hl : Leaves .ok e s (t.complete .ok)) : Completes i s e :=
  ⟨t.complete .ok, by rw [he, h]; rfl, hl⟩

/-- MemRead from byte 0 stops at the first unwritten byte. -/
theorem readIbuf_first_zero {s : State} {b k : Nat} (h : FirstUnwritten s 0 b k) : readIbuf s 0 b = .error (.unwritten (.ibuf k)) := by
  simpa using readIbuf_first h

/-- The written bytes before the first unwritten one are there to be read. -/
theorem exists_holds {s : State} {a n : Nat} (h : ∀ j, j < n → s.ibuf.read (a + j) ≠ none) :
    ∃ d : Bytes, d.length = n ∧ IbufHolds s a d := by
  match hr : readIbuf s a n with
  | .ok d =>
    obtain ⟨h1, h2⟩ := memRead_inv hr
    exact ⟨d, h1, fun i hi => h2 i (h1 ▸ hi)⟩
  | .error e =>
    obtain ⟨k, k1, k2, k3, -, -⟩ := memRead_error hr
    exact absurd (by rwa [Nat.add_sub_cancel' k1]) (h (k - a) (by omega))

/-- A prefix of held bytes is held. -/
theorem IbufHolds_left {s : State} {a : Nat} {d e : Bytes} (h : IbufHolds s a (d ++ e)) : IbufHolds s a d := by
  intro i hi
  rw [h i (by simp; omega), List.getElem?_append_left hi]

/-- What follows a prefix of held bytes is held after it. -/
theorem IbufHolds_right {s : State} {a : Nat} {d e : Bytes} (h : IbufHolds s a (d ++ e)) :
    IbufHolds s (a + d.length) e := by
  intro i hi
  have := h (d.length + i) (by simp; omega)
  rw [List.getElem?_append_right (by omega), Nat.add_sub_cancel_left, ← Nat.add_assoc] at this
  exact this

/-- The parts of a sequence around a 2-byte checksum field (30_encoding.md R93). -/
theorem csumCheck_append (f : Bytes → Half) (a stored z : Bytes) (h : stored.length = 2) :
    csumCheck f (a ++ stored ++ z) a.length =
      (f (a ++ [0, 0] ++ z), decide ((f (a ++ [0, 0] ++ z)).toNat = beVal stored)) := by
  have h1 : seg (a ++ stored ++ z) 0 a.length = a := by simp [seg]
  have h2 : seg (a ++ stored ++ z) (a.length + 2) (a ++ stored ++ z).length = z := by
    rw [seg, List.take_length, ← h, List.append_assoc, ← List.append_assoc, ← List.length_append, List.drop_left]
  have h3 : seg (a ++ stored ++ z) a.length (a.length + 2) = stored := by
    rw [seg, ← h, ← List.length_append, List.take_left, List.drop_left]
  simp only [csumCheck, h1, h2, h3]
  rfl

end Sys2Proof.Machine
end

