-- ==== Sys2Proof/Laws/PerInstr.lean ====
section
/-! SUPPORT. The per-instruction family EncodedForm: every command's word is well-formed, its RSV bits are 0, and it is the word
of the opcode map (30_encoding.md R80 to R83). -/

namespace Sys2Proof.Laws

/-- The encoded form of a command: RSV = 0, FAM and OP legal, and a row of the opcode map (R80, R83). -/
abbrev EncodedForm.Statement (i : Instr) : Prop :=
  (encode i).extractLsb' 8 24 = 0 ∧ wellFormedWord (encode i) = true ∧ (encode i, i) ∈ opcodeMap

theorem EncodedForm.crc32 : EncodedForm.Statement .crc32 := by decide
theorem EncodedForm.inet : EncodedForm.Statement .inet := by decide
theorem EncodedForm.inetph : EncodedForm.Statement .inetph := by decide
theorem EncodedForm.ethEnc : EncodedForm.Statement .ethEnc := by decide
theorem EncodedForm.ethDec : EncodedForm.Statement .ethDec := by decide
theorem EncodedForm.ethChk : EncodedForm.Statement .ethChk := by decide
theorem EncodedForm.arpEnc : EncodedForm.Statement .arpEnc := by decide
theorem EncodedForm.arpDec : EncodedForm.Statement .arpDec := by decide
theorem EncodedForm.arpVal : EncodedForm.Statement .arpVal := by decide
theorem EncodedForm.ndpEnc : EncodedForm.Statement .ndpEnc := by decide
theorem EncodedForm.ndpDec : EncodedForm.Statement .ndpDec := by decide
theorem EncodedForm.ndpVal : EncodedForm.Statement .ndpVal := by decide
theorem EncodedForm.icmpEnc : EncodedForm.Statement .icmpEnc := by decide
theorem EncodedForm.icmpDec : EncodedForm.Statement .icmpDec := by decide
theorem EncodedForm.icmpVal : EncodedForm.Statement .icmpVal := by decide
theorem EncodedForm.icmpChk : EncodedForm.Statement .icmpChk := by decide
theorem EncodedForm.ip4Enc : EncodedForm.Statement .ip4Enc := by decide
theorem EncodedForm.ip4Dec : EncodedForm.Statement .ip4Dec := by decide
theorem EncodedForm.ip4Val : EncodedForm.Statement .ip4Val := by decide
theorem EncodedForm.ip4Chk : EncodedForm.Statement .ip4Chk := by decide
theorem EncodedForm.ip6Enc : EncodedForm.Statement .ip6Enc := by decide
theorem EncodedForm.ip6Dec : EncodedForm.Statement .ip6Dec := by decide
theorem EncodedForm.ip6Val : EncodedForm.Statement .ip6Val := by decide
theorem EncodedForm.tcpEnc : EncodedForm.Statement .tcpEnc := by decide
theorem EncodedForm.tcpDec : EncodedForm.Statement .tcpDec := by decide
theorem EncodedForm.tcpVal : EncodedForm.Statement .tcpVal := by decide
theorem EncodedForm.tcpChk : EncodedForm.Statement .tcpChk := by decide
theorem EncodedForm.udpEnc : EncodedForm.Statement .udpEnc := by decide
theorem EncodedForm.udpDec : EncodedForm.Statement .udpDec := by decide
theorem EncodedForm.udpVal : EncodedForm.Statement .udpVal := by decide
theorem EncodedForm.udpChk : EncodedForm.Statement .udpChk := by decide
theorem EncodedForm.tlsEnc : EncodedForm.Statement .tlsEnc := by decide
theorem EncodedForm.tlsDec : EncodedForm.Statement .tlsDec := by decide
theorem EncodedForm.tlsVal : EncodedForm.Statement .tlsVal := by decide
theorem EncodedForm.dnsEnc : EncodedForm.Statement .dnsEnc := by decide
theorem EncodedForm.dnsDec : EncodedForm.Statement .dnsDec := by decide
theorem EncodedForm.dnsVal : EncodedForm.Statement .dnsVal := by decide
theorem EncodedForm.xfer : EncodedForm.Statement .xfer := by decide

end Sys2Proof.Laws
end

