-- ==== Sys2Proof/Laws/Step.lean ====
section
/-! SUPPORT. What one step can do. -/

namespace Sys2Proof.Machine

/-- The engine's step: idle, a command of the opcode map, or BADCMD (20_memory.md R61, 30_encoding.md R83). -/
theorem engineStep_cases {s t : State} (h : engineStep s = .next t) :
    ((s.busy = false ∨ s.stuckAt ≠ none) ∧ t = s) ∨
    (s.busy = true ∧ s.stuckAt = none ∧
      ((∃ i, decode s.cmd = .ok i ∧ exec i s = .next t) ∨ (∃ d, decode s.cmd = .error d) ∧ t = s.complete .badCmd)) := by
  unfold engineStep at h
  split at h
  · next hb =>
    simp only [Bool.and_eq_true, Option.isNone_iff_eq_none] at hb
    refine .inr ⟨hb.1, hb.2, ?_⟩
    split at h
    · next i hi => exact .inl ⟨i, hi, h⟩
    · next d hd => cases h; exact .inr ⟨⟨d, hd⟩, rfl⟩
  · next hb =>
    cases h
    refine .inl ⟨?_, rfl⟩
    cases hbusy : s.busy with
    | false => exact .inl rfl
    | true =>
      refine .inr fun hn => hb ?_
      simp [hbusy, hn]

/-- The turns of a step (20_memory.md R50, R60). -/
theorem stepAt_cases {base : Nat} {s t : State} (h : stepAt base s = .next t) :
    (s.agenda = [] ∧ engineStep s = .next t) ∨
    ∃ turn rest, s.agenda = turn :: rest ∧ takeTurn base turn { s with agenda := rest } = .next t := by
  unfold stepAt at h
  split at h
  · next ha => exact .inl ⟨ha, h⟩
  · next turn rest ha => exact .inr ⟨turn, rest, ha, h⟩

/-- The turns of a step of the block at CODEC_BASE. -/
theorem step_cases {s t : State} (h : step s = .next t) :
    (s.agenda = [] ∧ engineStep s = .next t) ∨
    ∃ turn rest, s.agenda = turn :: rest ∧ takeTurn Config.codecBase turn { s with agenda := rest } = .next t :=
  stepAt_cases h

/-- A step with no turn left is the engine's. -/
theorem step_nil {s : State} (h : s.agenda = []) : step s = engineStep s := by simp only [step, stepAt, h]

/-- A step with a turn left is that turn, taken in the state whose agenda no longer holds it. -/
theorem step_cons {s : State} {turn : Turn} {rest : List Turn} (h : s.agenda = turn :: rest) :
    step s = takeTurn Config.codecBase turn { s with agenda := rest } := by simp only [step, stepAt, h]

/-- A block with no turn and no enabled engine idles (60_exceptions.md R254). -/
theorem engineStep_idle {s : State} (h : s.busy = false) : engineStep s = .next s := by
  simp [engineStep, h]

/-- WAIT changes no architectural state: the value read, the window, and the agenda (30_encoding.md R87). -/
theorem hostWait_eq (s : State) :
    hostWait s = { s with
      readData := s.statusWord, window := s.window && s.busy
      agenda := if s.busy then .engine :: .wait :: s.agenda else s.agenda } := by
  have hr : hostRead s statusOffset .word = { s with readData := s.statusWord, window := s.window && s.busy } := rfl
  unfold hostWait
  rw [hr]
  simp only [State.statusWord_busy]
  cases s.busy <;> rfl

end Sys2Proof.Machine
end

