-- ==== Sys2Proof/Laws/System.lean ====
section
/-! SUPPORT. Several blocks: distinct base addresses, and what a step of the product can do (60_exceptions.md R252). -/

namespace Sys2Proof.Machine

/-- The base addresses rise with the block's number. -/
theorem blockBase_lt {j k : Nat} (h : j < k) : Config.blockBase j < Config.blockBase k := by
  induction k with
  | zero => omega
  | succ k ih =>
    rw [Config.blockBase]
    by_cases hj : j = k
    · subst hj; omega
    · have := ih (by omega); omega

/-- The base addresses are distinct (R252). -/
theorem blockBase_injective {j k : Nat} (h : Config.blockBase j = Config.blockBase k) : j = k := by
  rcases Nat.lt_trichotomy j k with hlt | heq | hgt
  · have := blockBase_lt hlt; omega
  · exact heq
  · have := blockBase_lt hgt; omega

/-- A step of the product that gives a next state: nothing, or the step of the one block `k`. -/
theorem systemStep_cases {blocks blocks' : System} {k : Nat} (h : systemStep blocks k = .next blocks') :
    (blocks[k]? = none ∧ blocks' = blocks) ∨
    ∃ s t, blocks[k]? = some s ∧ stepAt (Config.blockBase k) s = .next t ∧ blocks' = blocks.set k t := by
  unfold systemStep at h
  split at h
  · next hk => cases h; exact .inl ⟨hk, rfl⟩
  · next s hk =>
    split at h
    · next t ht => cases h; exact .inr ⟨s, t, hk, ht, rfl⟩
    · cases h
    · cases h

end Sys2Proof.Machine
end

