-- ==== Sys2Proof/Tests/Slice0.lean ====
section
/-! SUPPORT. The model's own tests. Expected values are those of spec/95_test_vectors.md (its vector is named in the docstring) or
follow by hand from the rule named; the `witness_` theorems show, for each statement of Obligations.lean with hypotheses, concrete
states and operands that meet them, at the ends of their ranges. -/

namespace Sys2Proof.Tests

open Sys2Proof Sys2Proof.Machine

-- One proof at a time, so that the kernel evaluations do not run beside each other.
set_option Elab.async false

/-! ### The states the tests start from -/

/-- A command has just been started; nothing is written in the buffers. -/
def started : State := { State.reset with busy := true, window := true }

/-- ILEN is `n`; no IBUF byte is written. -/
def lengthOnly (n : Nat) : State := { started with ilen := BitVec.ofNat 16 n }

/-- IBUF begins with `d` and ILEN is `n`. -/
def partly (d : Bytes) (n : Nat) : State := { lengthOnly n with ibuf := Memory.writeSeq [] 0 d }

/-- The input is exactly `d`. -/
def loaded (d : Bytes) : State := partly d d.length

/-- A block whose engine has stopped at IBUF[0]. -/
def stopped : State := (lengthOnly 1).engineFault (.ibuf 0)

/-- A block whose next turn is `t`. -/
def turn (t : Turn) (s : State) : State := { s with agenda := [t] }

/-- A block with no command running or awaiting its poll. -/
def idle : State := State.reset

/-- The outcome is a next state with property `p`. -/
def after (r : Result) (p : State → Bool) : Bool :=
  match r with
  | .next t => p t
  | .fault _ | .refused _ => false

/-- The command completed with OK, and OBUF and OLEN hold exactly the output `out`. -/
def wrote (out : Bytes) (t : State) : Bool :=
  t.statusWord == 2 && t.olen == BitVec.ofNat 16 out.length && t.obuf == Memory.writeSeq [] 0 out

/-- The field registers F0, F1, … are `vs`, and the ones after them 0. -/
def fieldsAre (vs : List Word) (t : State) : Bool := t.f.toList == vs ++ List.replicate (16 - vs.length) 0

/-- The command completed with OK, CSUM and RESULT as given. -/
def checked (c : Word) (ok : Bool) (t : State) : Bool := t.statusWord == 2 && t.csum == c && t.result == ok

/-- The command completed with the given STATUS and left CSUM, RESULT, OLEN and the field registers of `s`. -/
def failed (status : Word) (s t : State) : Bool :=
  t.statusWord == status && t.csum == s.csum && t.result == s.result && t.olen == s.olen && t.f == s.f

/-! ### Well-formedness and decoding -/

theorem test_reserved_bits_refused : commandDefect 0x00000100 = some .reservedBits := by decide
theorem test_reserved_family_refused : commandDefect 0x000000B0 = some .reservedFamily := by decide
theorem test_reserved_operation_refused : commandDefect 0x00000012 = some .reservedOperation := by decide
theorem test_well_formed_word_admitted : wellFormedWord 0x00000013 = true := by decide
theorem test_buf_bytes_bounds : ¬ Config.legalBufBytes 1535 ∧ Config.legalBufBytes 1536 ∧ Config.legalBufBytes 65535 ∧
    ¬ Config.legalBufBytes 65536 := by decide
theorem test_memory_order_refused : ¬ Memory.wf [(1, 0), (0, 0)] ∧ ¬ Memory.wf [(0, 0), (0, 1)] := by decide

/-- Each word is RSV (24 zeros), FAM (4 bits), OP (4 bits), by 30_encoding.md R80 to R82. -/
theorem test_decode_checksum_ethernet :
    decode 0b00000000000000000000000000000000 = .ok .crc32 ∧ decode 0b00000000000000000000000000000001 = .ok .inet ∧
    decode 0b00000000000000000000000000000010 = .ok .inetph ∧ decode 0b00000000000000000000000000010000 = .ok .ethEnc ∧
    decode 0b00000000000000000000000000010001 = .ok .ethDec ∧ decode 0b00000000000000000000000000010011 = .ok .ethChk := by
  decide

theorem test_decode_arp_ndp_icmp :
    decode 0b00000000000000000000000000100000 = .ok .arpEnc ∧ decode 0b00000000000000000000000000100001 = .ok .arpDec ∧
    decode 0b00000000000000000000000000100010 = .ok .arpVal ∧ decode 0b00000000000000000000000000110000 = .ok .ndpEnc ∧
    decode 0b00000000000000000000000000110001 = .ok .ndpDec ∧ decode 0b00000000000000000000000000110010 = .ok .ndpVal ∧
    decode 0b00000000000000000000000001000000 = .ok .icmpEnc ∧ decode 0b00000000000000000000000001000001 = .ok .icmpDec ∧
    decode 0b00000000000000000000000001000010 = .ok .icmpVal ∧ decode 0b00000000000000000000000001000011 = .ok .icmpChk := by
  decide

theorem test_decode_ip :
    decode 0b00000000000000000000000001010000 = .ok .ip4Enc ∧ decode 0b00000000000000000000000001010001 = .ok .ip4Dec ∧
    decode 0b00000000000000000000000001010010 = .ok .ip4Val ∧ decode 0b00000000000000000000000001010011 = .ok .ip4Chk ∧
    decode 0b00000000000000000000000001100000 = .ok .ip6Enc ∧ decode 0b00000000000000000000000001100001 = .ok .ip6Dec ∧
    decode 0b00000000000000000000000001100010 = .ok .ip6Val := by
  decide

theorem test_decode_tcp_udp :
    decode 0b00000000000000000000000001110000 = .ok .tcpEnc ∧ decode 0b00000000000000000000000001110001 = .ok .tcpDec ∧
    decode 0b00000000000000000000000001110010 = .ok .tcpVal ∧ decode 0b00000000000000000000000001110011 = .ok .tcpChk ∧
    decode 0b00000000000000000000000010000000 = .ok .udpEnc ∧ decode 0b00000000000000000000000010000001 = .ok .udpDec ∧
    decode 0b00000000000000000000000010000010 = .ok .udpVal ∧ decode 0b00000000000000000000000010000011 = .ok .udpChk := by
  decide

theorem test_decode_tls_dns_control :
    decode 0b00000000000000000000000010010000 = .ok .tlsEnc ∧ decode 0b00000000000000000000000010010001 = .ok .tlsDec ∧
    decode 0b00000000000000000000000010010010 = .ok .tlsVal ∧ decode 0b00000000000000000000000010100000 = .ok .dnsEnc ∧
    decode 0b00000000000000000000000010100001 = .ok .dnsDec ∧ decode 0b00000000000000000000000010100010 = .ok .dnsVal ∧
    decode 0b00000000000000000000000011110000 = .ok .xfer := by
  decide

theorem test_decode_table_word : decodeTableWord 32 0x53 = some .ip4Chk ∧ decodeTableWord 32 0x12 = none := by decide

/-! ### Commands -/

/-- 40_checksum_engine.md R100: entries of the table, section 2.1. -/
theorem test_crc_table : crcTable[0] = 0 ∧ crcTable[0x01] = 0x77073096 ∧ crcTable[0x80] = 0xEDB88320 ∧
    crcTable[0xFF] = 0x2D02EF8D := by decide +kernel

/-- V-CK-3. -/
theorem test_crc32 : after (exec .crc32 (loaded [0x31, 0x32, 0x33, 0x34, 0x35, 0x36, 0x37, 0x38, 0x39]))
    (checked 0xCBF43926 false) = true := by decide +kernel

/-- V-CK-10. -/
theorem test_inet : after (exec .inet (loaded [0x00, 0x01, 0xF2, 0x03, 0xF4, 0xF5, 0xF6, 0xF7])) (checked 0x220D false) = true := by
  decide +kernel

/-- V-CK-23: an odd length. -/
theorem test_inet_odd : after (exec .inet (loaded [0x01, 0x02, 0x03])) (checked 0xFBFD false) = true := by decide +kernel

/-- V-CK-14: the high bits of F2 and F3 are ignored. -/
theorem test_inetph : after (exec .inetph ((loaded [0x04, 0xD2, 0x00, 0x35, 0x00, 0x0A, 0x00, 0x00, 0x68, 0x69]).setFs
    [(0, 0xC0A80001), (1, 0xC0A800C7), (2, 0x111), (3, 0x1000A)])) (checked 0x1051 false) = true := by decide +kernel

/-- The frame of V-ETH-1. -/
def frame : Bytes :=
  [0xFF, 0xFF, 0xFF, 0xFF, 0xFF, 0xFF, 0x02, 0x00, 0x00, 0x00, 0x00, 0x01, 0x08, 0x00, 0x01, 0x02, 0x03, 0x04, 0x05, 0x06, 0x07,
    0x08, 0x09, 0x0A] ++ zeros 36 ++ [0x28, 0x69, 0x02, 0xB9]

/-- V-ETH-1. -/
theorem test_eth_enc : after (exec .ethEnc ((loaded [0x01, 0x02, 0x03, 0x04, 0x05, 0x06, 0x07, 0x08, 0x09, 0x0A]).setFs
    [(0, 0xFFFF), (1, 0xFFFFFFFF), (2, 0x0200), (3, 1)]))
    (fun t => wrote frame t && fieldsAre [0xFFFF, 0xFFFFFFFF, 0x0200, 1, 0, 0x800, 0x286902B9] t) = true := by decide +kernel

/-- V-ETH-3. -/
theorem test_eth_dec : after (exec .ethDec (loaded frame))
    (fieldsAre [0xFFFF, 0xFFFFFFFF, 0x0200, 1, 0, 0x800, 0x286902B9, 0, 0, 0, 0, 0, 14, 46]) = true := by decide +kernel

/-- V-ETH-2. -/
theorem test_eth_chk : after (exec .ethChk (loaded frame)) (checked 0x286902B9 true) = true := by decide +kernel

/-- V-ETH-4: one bit flipped. -/
theorem test_eth_chk_flip : after (exec .ethChk (loaded (frame.set 20 0x06))) (checked 0x872D90FE false) = true := by decide +kernel

/-- V-ETH-8. -/
theorem test_eth_dec_short : after (exec .ethDec (loaded (zeros 63))) (failed 0x12 (loaded (zeros 63))) = true := by decide +kernel

/-- The field registers of V-ARP-1. -/
def arpFields : List (Fin 16 × Word) :=
  [(0, 1), (1, 0x0800), (2, 6), (3, 4), (4, 1), (5, 0x0011), (6, 0x22334455), (7, 0xC0A80001), (10, 0xC0A80002)]

/-- The packet of V-ARP-1. -/
def arpPacket : Bytes :=
  [0x00, 0x01, 0x08, 0x00, 0x06, 0x04, 0x00, 0x01, 0x00, 0x11, 0x22, 0x33, 0x44, 0x55, 0xC0, 0xA8, 0x00, 0x01, 0x00, 0x00, 0x00,
    0x00, 0x00, 0x00, 0xC0, 0xA8, 0x00, 0x02]

/-- V-ARP-1, V-ARP-7: ILEN is ignored. -/
theorem test_arp_enc : after (exec .arpEnc ((lengthOnly 4097).setFs arpFields)) (wrote arpPacket) = true := by decide +kernel

/-- V-ARP-3. -/
theorem test_arp_dec : after (exec .arpDec (loaded arpPacket))
    (fun t => t.f == (started.setFs arpFields).f) = true := by decide +kernel

/-- V-ARP-6. -/
theorem test_arp_val : after (exec .arpVal (started.setFs [(0, 0x10001), (1, 0x0800), (2, 0x106), (3, 4)]))
    (checked 0 true) = true := by decide +kernel

/-- V-ARP-5. -/
theorem test_arp_val_false : after (exec .arpVal (started.setFs [(0, 1), (1, 0x86DD), (2, 6), (3, 4)]))
    (checked 0 false) = true := by decide +kernel

/-- The packet of V-NDP-1. -/
def ndpPacket : Bytes :=
  [0x87, 0x00, 0xAB, 0xCD, 0x00, 0x00, 0x00, 0x00, 0xFE, 0x80, 0x00, 0x00, 0x00, 0x00, 0x00, 0x00, 0x02, 0x11, 0x22, 0x33, 0x44,
    0x55, 0x66, 0x77, 0x01, 0x01, 0x00, 0x11, 0x22, 0x33, 0x44, 0x55]

/-- V-NDP-1. -/
theorem test_ndp_enc : after (exec .ndpEnc ((loaded [0x01, 0x01, 0x00, 0x11, 0x22, 0x33, 0x44, 0x55]).setFs
    [(0, 135), (2, 0xABCD), (4, 0xFE800000), (6, 0x02112233), (7, 0x44556677)]))
    (fun t => wrote ndpPacket t && t.freg 13 == 8) = true := by decide +kernel

/-- V-NDP-5. -/
theorem test_ndp_dec : after (exec .ndpDec (loaded ndpPacket))
    (fieldsAre [0x87, 0, 0xABCD, 0, 0xFE800000, 0, 0x02112233, 0x44556677, 0, 0, 0, 0, 24, 8]) = true := by decide +kernel

/-- V-NDP-3: the ends of the range. -/
theorem test_ndp_val : ([132, 133, 136, 137].map fun v : Word =>
    after (exec .ndpVal (started.setFs [(0, v)])) (checked 0 true)) = [false, true, true, false] := by decide +kernel

/-- The packet of V-ICMP-1. -/
def icmpPacket : Bytes := [0x08, 0x00, 0x21, 0x04, 0x12, 0x34, 0x00, 0x01, 0x61, 0x62, 0x63, 0x64]

/-- V-ICMP-1. -/
theorem test_icmp_enc : after (exec .icmpEnc ((loaded [0x61, 0x62, 0x63, 0x64]).setFs [(0, 8), (3, 0x1234), (4, 1)]))
    (fun t => wrote icmpPacket t && fieldsAre [8, 0, 0x2104, 0x1234, 1, 0, 0, 0, 0, 0, 0, 0, 0, 4] t) = true := by decide +kernel

/-- V-ICMP-7. -/
theorem test_icmp_dec : after (exec .icmpDec (loaded icmpPacket))
    (fieldsAre [8, 0, 0x2104, 0x1234, 1, 0, 0, 0, 0, 0, 0, 0, 8, 4]) = true := by decide +kernel

/-- V-ICMP-6. -/
theorem test_icmp_val : after (exec .icmpVal started) (checked 0 true) = true := by decide +kernel

/-- V-ICMP-2. -/
theorem test_icmp_chk : after (exec .icmpChk (loaded icmpPacket)) (checked 0x2104 true) = true := by decide +kernel

/-- V-ICMP-3: one bit flipped. -/
theorem test_icmp_chk_flip : after (exec .icmpChk (loaded (icmpPacket.set 9 0xE2))) (checked 0x2084 false) = true := by
  decide +kernel

/-- The packet of V-IP4-1. -/
def ip4Packet : Bytes :=
  [0x45, 0x00, 0x00, 0x28, 0x1C, 0x46, 0x40, 0x00, 0x40, 0x06, 0x9C, 0x71, 0xC0, 0xA8, 0x00, 0x01, 0xC0, 0xA8, 0x00, 0xC7] ++
    zeros 20

/-- V-IP4-8: options. -/
theorem test_ip4_enc : after (exec .ip4Enc ((loaded [0x01, 0x01, 0x01, 0x00, 0xDE, 0xAD, 0xBE, 0xEF]).setFs
    [(0, 0x46), (2, 28), (5, 1), (6, 17), (8, 0x0A000001), (9, 0x0A000002), (10, 4)]))
    (fun t => wrote [0x46, 0x00, 0x00, 0x1C, 0x00, 0x00, 0x00, 0x00, 0x01, 0x11, 0xA2, 0xCE, 0x0A, 0x00, 0x00, 0x01, 0x0A, 0x00,
      0x00, 0x02, 0x01, 0x01, 0x01, 0x00, 0xDE, 0xAD, 0xBE, 0xEF] t &&
      fieldsAre [0x46, 0, 28, 0, 0, 1, 17, 0xA2CE, 0x0A000001, 0x0A000002, 4, 0, 4, 4] t) = true := by decide +kernel

/-- V-IP4-9: an options length that is not a multiple of 4, and one over 40. -/
theorem test_ip4_enc_options : ([3, 44].all fun v : Word =>
    after (exec .ip4Enc ((partly (zeros 60) 60).setFs [(10, v)])) (failed 0x32 ((partly (zeros 60) 60).setFs [(10, v)]))) = true := by
  decide +kernel

/-- V-IP4-4. -/
theorem test_ip4_dec : after (exec .ip4Dec (loaded ip4Packet))
    (fieldsAre [0x45, 0, 0x28, 0x1C46, 0x4000, 0x40, 6, 0x9C71, 0xC0A80001, 0xC0A800C7, 0, 20, 20, 20]) = true := by decide +kernel

/-- V-IP4-12: the total length is used only when it is consistent. -/
theorem test_ip4_dec_total_length : after (exec .ip4Dec (loaded ([0x45, 0x00, 0x00, 0x0A] ++ zeros 26))) (fun t => t.freg 13 == 10) =
    true ∧ after (exec .ip4Dec (loaded ([0x45, 0x00, 0x00, 0x19] ++ zeros 26))) (fun t => t.freg 13 == 5) = true := by decide +kernel

/-- V-IP4-3, V-IP4-14. -/
theorem test_ip4_val : ([(0x45, 0x28), (0x60, 20), (0x45, 19)].map fun p : Word × Word =>
    after (exec .ip4Val (started.setFs [(0, p.1), (2, p.2)])) (checked 0 true)) = [true, false, false] := by decide +kernel

/-- V-IP4-5, V-IP4-7: a data bit is not covered. -/
theorem test_ip4_chk : after (exec .ip4Chk (loaded (ip4Packet.set 30 0x01))) (checked 0x9C71 true) = true := by decide +kernel

/-- V-IP4-6: a header bit is covered. -/
theorem test_ip4_chk_flip : after (exec .ip4Chk (loaded (ip4Packet.set 8 0x41))) (checked 0x9B71 false) = true := by decide +kernel

/-- The packet of V-IP6-1. -/
def ip6Packet : Bytes :=
  [0x60, 0x01, 0x23, 0x45, 0x00, 0x04, 0x3B, 0xFF, 0x20, 0x01, 0x0D, 0xB8] ++ zeros 11 ++ [0x01, 0x20, 0x01, 0x0D, 0xB8] ++
    zeros 11 ++ [0x02, 0x57, 0x58, 0x59, 0x5A]

/-- V-IP6-1. -/
theorem test_ip6_enc : after (exec .ip6Enc ((loaded [0x57, 0x58, 0x59, 0x5A]).setFs
    [(0, 0x60012345), (1, 4), (2, 59), (3, 255), (4, 0x20010DB8), (7, 1), (8, 0x20010DB8), (11, 2)])) (wrote ip6Packet) = true := by
  decide +kernel

/-- V-IP6-4. -/
theorem test_ip6_dec : after (exec .ip6Dec (loaded ip6Packet))
    (fieldsAre [0x60012345, 4, 0x3B, 0xFF, 0x20010DB8, 0, 0, 1, 0x20010DB8, 0, 0, 2, 40, 4]) = true := by decide +kernel

/-- V-IP6-2, V-IP6-3. -/
theorem test_ip6_val : ([0x60012345, 0x40000000].map fun v : Word =>
    after (exec .ip6Val (started.setFs [(0, v)])) (checked 0 true)) = [true, false] := by decide +kernel

/-- The segment of V-TCP-5. -/
def tcpSegment : Bytes :=
  [0x00, 0x01, 0x00, 0x02, 0x00, 0x00, 0x00, 0x00, 0x00, 0x00, 0x00, 0x00, 0x61, 0xFF, 0x00, 0x00, 0x19, 0xB9, 0x00, 0x00, 0x02,
    0x04, 0x05, 0xB4, 0x68, 0x69]

/-- V-TCP-5: flag masking and options. -/
theorem test_tcp_enc : after (exec .tcpEnc ((loaded [0x02, 0x04, 0x05, 0xB4, 0x68, 0x69]).setFs
    [(0, 1), (1, 2), (4, 0xFFFF), (8, 0x0A000001), (9, 0x0A000002), (10, 4)]))
    (fun t => wrote tcpSegment t && fieldsAre [1, 2, 0, 0, 0x61FF, 0, 0x19B9, 0, 0x0A000001, 0x0A000002, 4, 0, 4, 2] t) = true := by
  decide +kernel

/-- V-TCP-6. -/
theorem test_tcp_dec : after (exec .tcpDec (loaded tcpSegment))
    (fieldsAre [1, 2, 0, 0, 0x61FF, 0, 0x19B9, 0, 0, 0, 4, 20, 24, 2]) = true := by decide +kernel

/-- V-TCP-3, V-TCP-7. -/
theorem test_tcp_val : ([(0x3039, 80), (0, 80)].map fun p : Word × Word =>
    after (exec .tcpVal (started.setFs [(0, p.1), (1, p.2)])) (checked 0 true)) = [true, false] := by decide +kernel

/-- V-TCP-6. -/
theorem test_tcp_chk : after (exec .tcpChk ((loaded tcpSegment).setFs [(8, 0x0A000001), (9, 0x0A000002)])) (checked 0x19B9 true) =
    true := by decide +kernel

/-- V-TCP-9: a data offset beyond the input. -/
theorem test_tcp_dec_offset : after (exec .tcpDec (loaded ((zeros 24).set 12 0xF0))) (failed 0x12 (loaded [])) = true := by
  decide +kernel

/-- The datagram of V-UDP-1. -/
def udpDatagram : Bytes := [0x04, 0xD2, 0x00, 0x35, 0x00, 0x0A, 0x10, 0x51, 0x68, 0x69]

/-- V-UDP-1. -/
theorem test_udp_enc : after (exec .udpEnc ((loaded [0x68, 0x69]).setFs
    [(0, 1234), (1, 53), (8, 0xC0A80001), (9, 0xC0A800C7)]))
    (fun t => wrote udpDatagram t && fieldsAre [1234, 53, 10, 0x1051, 0, 0, 0, 0, 0xC0A80001, 0xC0A800C7, 0, 0, 0, 2] t) = true := by
  decide +kernel

/-- V-UDP-4. -/
theorem test_udp_dec : after (exec .udpDec (loaded udpDatagram))
    (fieldsAre [0x4D2, 0x35, 10, 0x1051, 0, 0, 0, 0, 0, 0, 0, 0, 8, 2]) = true := by decide +kernel

/-- V-UDP-2, V-UDP-6. -/
theorem test_udp_val : ([10, 7].map fun v : Word =>
    after (exec .udpVal (started.setFs [(0, 1), (1, 1), (2, v)])) (checked 0 true)) = [true, false] := by decide +kernel

/-- V-UDP-3. -/
theorem test_udp_chk : after (exec .udpChk ((loaded udpDatagram).setFs [(8, 0xC0A80001), (9, 0xC0A800C7)])) (checked 0x1051 true) =
    true := by decide +kernel

/-- V-UDP-5: the pseudo-header is covered. -/
theorem test_udp_chk_address : after (exec .udpChk ((loaded udpDatagram).setFs [(8, 0xC0A80001), (9, 0xC0A800C8)]))
    (checked 0x1050 false) = true := by decide +kernel

/-- The record of V-TLS-1. -/
def tlsRecord : Bytes := [0x17, 0x03, 0x03, 0x00, 0x05, 0x68, 0x65, 0x6C, 0x6C, 0x6F]

/-- V-TLS-1: the encoder's own version and length. -/
theorem test_tls_enc : after (exec .tlsEnc ((loaded [0x68, 0x65, 0x6C, 0x6C, 0x6F]).setFs [(0, 23), (1, 0x301)]))
    (fun t => wrote tlsRecord t && fieldsAre [23, 0x303, 5, 0, 0, 0, 0, 0, 0, 0, 0, 0, 0, 5] t) = true := by decide +kernel

/-- V-TLS-4: any version is decoded. -/
theorem test_tls_dec : after (exec .tlsDec (loaded [0x16, 0x03, 0x01, 0x00, 0x09, 0x01, 0x02]))
    (fieldsAre [0x16, 0x301, 9, 0, 0, 0, 0, 0, 0, 0, 0, 0, 5, 2]) = true := by decide +kernel

/-- V-TLS-2, and F13 compared in all its bits (45_tls_dns.md R213). -/
theorem test_tls_val : ([5, 0x10005].map fun v : Word =>
    after (exec .tlsVal (started.setFs [(1, 0x303), (2, 5), (13, v)])) (checked 0 true)) = [true, false] := by decide +kernel

/-- The message of V-DNS-1. -/
def dnsMessage : Bytes :=
  [0xAB, 0xCD, 0x01, 0x00, 0x00, 0x01, 0x00, 0x00, 0x00, 0x00, 0x00, 0x00, 0x03, 0x77, 0x77, 0x77, 0x00, 0x00, 0x01, 0x00, 0x01]

/-- V-DNS-1. -/
theorem test_dns_enc : after (exec .dnsEnc ((loaded [0x03, 0x77, 0x77, 0x77, 0x00, 0x00, 0x01, 0x00, 0x01]).setFs
    [(0, 0xABCD), (1, 0x100), (2, 1)])) (fun t => wrote dnsMessage t && t.freg 13 == 9) = true := by decide +kernel

/-- V-DNS-3. -/
theorem test_dns_dec : after (exec .dnsDec (loaded dnsMessage))
    (fieldsAre [0xABCD, 0x100, 1, 0, 0, 0, 0, 0, 0, 0, 0, 0, 12, 9]) = true := by decide +kernel

/-- V-DNS-2, V-DNS-4: bits above 16 do not count. -/
theorem test_dns_val : ([(2, 1), (5, 0x10000)].map fun p : Fin 16 × Word =>
    after (exec .dnsVal (started.setFs [p])) (checked 0 true)) = [true, false] := by decide +kernel

/-- 46_control.md R230: OBUF[0 ..< OLEN] and OLEN go to IBUF and ILEN; later IBUF bytes stay. -/
theorem test_xfer : after (exec .xfer { loaded [1, 2, 3] with obuf := [(0, 0xAA), (1, 0xBB), (2, 0xCC)], olen := 2 })
    (fun t => t.ibuf == [(0, 0xAA), (1, 0xBB), (2, 3)] && t.ilen == 2 && t.statusWord == 2) = true := by decide +kernel

/-! ### Steps, reset, host accesses -/

/-- V-ETH-11: the step of a reserved word. -/
theorem test_bad_command : after (step { started with cmd := 0x12 }) (failed 0x42 started) = true := by decide +kernel

/-- 60_exceptions.md R244: the first unwritten byte sets FAULT and the command does not complete. -/
theorem test_engine_fault : after (step { partly [0x61] 3 with cmd := 0x01 })
    (fun t => t.fault && t.statusWord == 1 && t.stuckAt == some (.ibuf 1) && t.csum == 0) = true := by decide +kernel

/-- The fetched word runs as the first command after reset (log 3). -/
theorem test_fetch_word : after (step (State.reset.withFetchWord 32 0x42)) (checked 0 true) = true := by decide +kernel

/-- 20_memory.md R53: the word 0x34333231 at IBUF offset 0 gives the bytes 31 32 33 34 (Program A). -/
theorem test_lane_order : after (hostAccess 0x10000 .word (.write 0x34333231) idle)
    (fun t => t.ibuf == [(0, 0x31), (1, 0x32), (2, 0x33), (3, 0x34)]) = true := by decide +kernel

/-- R54: a 32-bit IBUF write at BUF_BYTES is ignored, one across the end keeps what is inside. -/
theorem test_ibuf_end : after (hostAccess 0x11000 .word (.write 1) idle) (fun t => t.ibuf == []) = true ∧
    after (hostAccess 0x10FFF .byte (.write 0xAB) idle) (fun t => t.ibuf == [(4095, 0xAB)]) = true := by decide +kernel

/-- R30: ILEN keeps 16 bits. R55: OLEN ignores a write. -/
theorem test_length_writes : after (hostAccess 0x10 .word (.write 0x12345) idle) (fun t => t.ilen == 0x2345) = true ∧
    hostAccess 0x14 .word (.write 5) idle = .next idle := ⟨by decide +kernel, rfl⟩

/-- R56: refused accesses. -/
theorem test_refused_accesses : hostAccess 0x2 .word .read idle = .refused (.hostAccess 0x2 .word) ∧
    hostAccess 0x0 .byte .read idle = .refused (.hostAccess 0x0 .byte) ∧
    hostAccess 0x10000 .half .read idle = .refused (.hostAccess 0x10000 .half) := ⟨rfl, rfl, rfl⟩

/-- 70_reset_and_hazards.md R262: a write inside the busy window changes FAULT alone; a poll of STATUS is served. -/
theorem test_busy_window : hostAccess 0x40 .word (.write 7) started = .next { started with fault := true } ∧
    hostAccess 0x4 .word .read started = .next { started with readData := 1 } := ⟨rfl, rfl⟩

/-- R260: reset discards the running command. -/
theorem test_reset_turn : step (turn .reset ((loaded [1, 2]).setFs [(3, 9)])) = .next State.reset := rfl

/-- 30_encoding.md R87: the expansions of RUN, WB and SETMAC. -/
theorem test_host_program : expandProgram [.run .xfer, .wb 2 [0xAB, 0xCD], .setmac 2 0x02 0 0 0 0 1] =
    [.access 0x0 .word (.write 0xF0), .wait, .access 0x10002 .byte (.write 0xAB), .access 0x10003 .byte (.write 0xCD),
      .access 0x48 .word (.write 0x0200), .access 0x4C .word (.write 0x00000001)] := by decide +kernel

/-! ### Witnesses: the hypotheses of the statements are met -/

/-- What `loaded d` holds. -/
theorem loaded_inputIs (d : Bytes) (h : d.length ≤ 4096) : InputIs (loaded d) d := by
  have hn : (loaded d).n = d.length := by
    show (BitVec.ofNat 16 d.length).toNat = d.length
    rw [BitVec.toNat_ofNat]
    omega
  refine ⟨hn, by rw [hn]; exact h, fun i hi => ?_⟩
  show (Memory.writeSeq [] 0 d).read (0 + i) = d[i]?
  rw [Nat.zero_add, Memory.read_writeSeq_zero, if_pos hi]

/-- The hypothesis of every command's BadArg clause on the input length, at its boundary. -/
theorem witness_too_long : (lengthOnly 4097).bufBytes < (lengthOnly 4097).n := by decide

/-- What `partly d n` holds: a written beginning of `d`. -/
theorem partly_holds (d e : Bytes) (n : Nat) : IbufHolds (partly (d ++ e) n) 0 d := by
  intro i hi
  show (Memory.writeSeq [] 0 (d ++ e)).read (0 + i) = d[i]?
  rw [Nat.zero_add, Memory.read_writeSeq_zero, if_pos (by rw [List.length_append]; omega), List.getElem?_append_left hi]

/-- The first unwritten byte of `partly d n` is the one after `d`. -/
theorem partly_first (d : Bytes) (n a b : Nat) (ha : a ≤ d.length) (hb : d.length < b) :
    FirstUnwritten (partly d n) a b d.length := by
  have hr : ∀ k, (partly d n).ibuf.read k = if k < d.length then d[k]? else none := fun k => Memory.read_writeSeq_zero [] d k
  refine ⟨ha, hb, by rw [hr, if_neg (Nat.lt_irrefl _)], fun j hj _ => ?_⟩
  rw [hr, if_pos hj, List.getElem?_eq_getElem hj]
  exact Option.some_ne_none _

/-- Input shorter by one than `m`, input of exactly `m` bytes with the last unwritten, and input of exactly `m` bytes. -/
abbrev HeaderClausesMet (m : Nat) : Prop :=
  ((lengthOnly (m - 1)).n ≤ (lengthOnly (m - 1)).bufBytes ∧ (lengthOnly (m - 1)).n < m) ∧
  ((partly (zeros (m - 1)) m).n ≤ (partly (zeros (m - 1)) m).bufBytes ∧ m ≤ (partly (zeros (m - 1)) m).n ∧
    FirstUnwritten (partly (zeros (m - 1)) m) 0 m (m - 1)) ∧
  ((zeros m).length = m ∧ HeaderIs (loaded (zeros m)) (zeros m))

theorem headerClausesMet (m : Nat) (h : 1 ≤ m) (hm : m ≤ 4096) : HeaderClausesMet m := by
  have hl : ∀ k, (zeros k).length = k := fun k => List.length_replicate
  have hn : ∀ k, k ≤ 4096 → (BitVec.ofNat 16 k).toNat = k := fun k hk => by rw [BitVec.toNat_ofNat]; omega
  have h1 := loaded_inputIs (zeros m) (by rw [hl]; exact hm)
  have h2 := partly_first (zeros (m - 1)) m 0 m (Nat.zero_le _) (by rw [hl]; omega)
  rw [hl] at h2
  refine ⟨⟨?_, ?_⟩, ⟨?_, ?_, h2⟩, hl m, ?_, h1.2⟩
  · show (BitVec.ofNat 16 (m - 1)).toNat ≤ 4096
    rw [hn _ (by omega)]; omega
  · show (BitVec.ofNat 16 (m - 1)).toNat < m
    rw [hn _ (by omega)]; omega
  · show (BitVec.ofNat 16 m).toNat ≤ 4096
    rw [hn _ hm]; exact hm
  · show m ≤ (BitVec.ofNat 16 m).toNat
    rw [hn _ hm]
  · rw [h1.1]

/-- An input that fits, with its last byte unwritten. -/
abbrev LastUnwritten : Prop :=
  (partly [1, 2] 3).n ≤ (partly [1, 2] 3).bufBytes ∧ FirstUnwritten (partly [1, 2] 3) 0 (partly [1, 2] 3).n 2

/-- The greatest input that an ENC command with `m` added bytes turns into an output that fits, and one byte more. -/
abbrev OutputClausesMet (m : Nat) : Prop :=
  InputIs (loaded (zeros (4096 - m))) (zeros (4096 - m)) ∧
  m + (loaded (zeros (4096 - m))).n ≤ (loaded (zeros (4096 - m))).bufBytes ∧
  InputIs (loaded (zeros (4097 - m))) (zeros (4097 - m)) ∧
  (loaded (zeros (4097 - m))).bufBytes < m + (loaded (zeros (4097 - m))).n

theorem outputClausesMet (m : Nat) (h : 1 ≤ m) (hm : m ≤ 4096) : OutputClausesMet m := by
  have h1 := loaded_inputIs (zeros (4096 - m)) (by simp [zeros])
  have h2 := loaded_inputIs (zeros (4097 - m)) (by simp [zeros]; omega)
  have hb : ∀ d, (loaded d).bufBytes = 4096 := fun _ => rfl
  refine ⟨h1, ?_, h2, ?_⟩
  · rw [h1.1, hb]; simp [zeros]; omega
  · rw [h2.1, hb]; simp [zeros]; omega

theorem witness_DecodeGivesACommandExactlyAtItsWord : decode 0xF0 = .ok .xfer ∧ decode 0xF1 ≠ .ok .xfer := by decide

/-- Each end of a reserved range of 30_encoding.md R84, and a running block with a reserved word. -/
theorem witness_ReservedWordsCompleteWithBadCmd :
    (∀ w ∈ [0x03, 0x0F, 0x12, 0x14, 0x1F, 0x23, 0x3F, 0x44, 0x5F, 0x63, 0x7F, 0x84, 0xAF, 0xB0, 0xEF, 0xF1, 0x100], ReservedWord w) ∧
    (∀ w ∈ [0x02, 0x10, 0x13, 0x22, 0x43, 0x83, 0xA2, 0xF0], ¬ ReservedWord w) ∧
    started.busy = true ∧ started.stuckAt = none ∧ ReservedWord (0xFFFFFFFF : Word).toNat := by
  refine ⟨by decide, by decide, rfl, rfl, by decide⟩

theorem witness_StepRunsTheDecodedCommand :
    (started.busy = true ∧ started.stuckAt = none ∧ decode started.cmd = .ok .crc32 ∧ started.agenda = []) ∧
    ((turn .engine started).agenda = .engine :: [] ∧ (turn .engine started).busy = true) ∧
    (idle.busy = false ∧ idle.agenda = []) ∧ (turn .engine idle).agenda = .engine :: [] := by decide

theorem witness_inv_idle : Inv idle := by constructor <;> first | exact rfl | decide
theorem witness_inv_started : Inv started := by constructor <;> first | exact rfl | decide

theorem witness_StepKeepsTheInvariant : Inv started ∧ step started = .next (started.complete .ok) :=
  ⟨witness_inv_started, rfl⟩

/-- A reset of a stopped engine, alone and followed by a CMD write. -/
theorem witness_ResetLeavesTheResetState : (turn .reset stopped).agenda = .reset :: [] ∧
    ({ stopped with agenda := [.reset, .access 0x0 .word (.write 0x42)] } : State).agenda =
      .reset :: .access 0x0 .word (.write 0x42) :: [] := ⟨rfl, rfl⟩

theorem witness_FaultIsNeverCleared :
    step (turn .reset { started with fault := true }) = .next { State.reset with fault := true } := rfl

/-- BUSY rises by a CMD write, falls by the engine's step, falls by reset. -/
theorem witness_BusyChangesOnlyByStartCompletionOrReset :
    step (turn (.access 0 .word (.write 0x42)) idle) = .next (idle.startCommand 0x42) ∧
    step started = .next (started.complete .ok) ∧ step (turn .reset started) = .next State.reset := ⟨rfl, rfl, rfl⟩

theorem witness_StoppedEngineStaysBusyUntilReset :
    Inv stopped ∧ stopped.stuckAt = some (.ibuf 0) ∧ (∀ rest, stopped.agenda ≠ .reset :: rest) ∧ step stopped = .next stopped :=
  ⟨by constructor <;> first | exact rfl | decide, rfl, fun _ h => (by cases h), rfl⟩

theorem witness_WaitReturnsAfterTheCommand :
    (turn .wait started).agenda = .wait :: [] ∧ (turn .wait started).busy = true ∧
    engineStep { turn .wait started with agenda := [.wait], readData := started.statusWord } =
      .next ({ turn .wait started with readData := started.statusWord }.complete .ok) := ⟨rfl, rfl, rfl⟩

theorem witness_ErrorCompletionWritesStatusAlone : (lengthOnly 4097).busy = true ∧
    exec .crc32 (lengthOnly 4097) = .next ((lengthOnly 4097).complete .badArg) := ⟨rfl, rfl⟩

/-- One command for each output. -/
theorem witness_EachOutputHasItsOwnCommands :
    after (exec .icmpVal started) (fun t => t.result != started.result) = true ∧
    after (exec .inet started) (fun t => t.csum != started.csum) = true ∧
    after (exec .dnsEnc started) (fun t => t.olen != started.olen && t.obuf.read 0 != started.obuf.read 0) = true ∧
    after (exec .xfer { started with olen := 1, obuf := [(0, 5)] }) (fun t => t.ilen == 1 && t.ibuf.read 0 == some 5) = true ∧
    after (exec .dnsDec (loaded (zeros 12))) (fun t => t.freg 12 == 12) = true := by decide +kernel

/-- A step of block 0 and one of block 1, and a bus turn at the last byte of block 1. -/
theorem witness_BlocksShareNoState :
    systemStep [started, idle] 0 = .next [started.complete .ok, idle] ∧ systemStep [started, idle] 1 = .next [started, idle] ∧
    ([started, turn (.bus (Config.blockBase 1 + 0x3FFFF) .byte .read) idle] : System)[1]? =
      some (turn (.bus (Config.blockBase 1 + 0x3FFFF) .byte .read) idle) :=
  ⟨rfl, rfl, rfl⟩

/-- The idle block, and the block whose last command has completed and is not polled. -/
theorem witness_CmdWriteStartsACommand :
    (∀ s ∈ [idle, started.complete .ok], (turn (.access 0x0 .word (.write 0x42)) s).busy = false ∧
      (turn (.access 0x0 .word (.write 0x42)) s).agenda = .access 0x0 .word (.write 0x42) :: []) ∧
    (turn (.access 0x0 .word (.write 0x42)) idle).window = false ∧
    (turn (.access 0x0 .word (.write 0x42)) (started.complete .ok)).window = true := by decide

/-- A CMD write between completion and poll sets FAULT and starts its command; one with BUSY = 1 sets FAULT alone (log 9). -/
theorem test_unpolled_cmd_write :
    hostAccess 0x0 .word (.write 7) (started.complete .ok) = .next { started with cmd := 7, fault := true } ∧
    hostAccess 0x0 .word (.write 7) started = .next { started with fault := true } := ⟨rfl, rfl⟩

/-- The two reads that are served, and accesses at both ends of the space that are not, CMD while BUSY = 1 among them. -/
theorem witness_BusyWindowAccessSetsFault : (turn (.access 0x4 .word .read) started).hazardOpen = true ∧
    (∀ off ∈ [0x0, 0x40, 0x10000, 0x3FFFC], off < 0x40000 ∧ meaningful off .word = true ∧
      ¬ (Width.word = .word ∧ AccessOp.read = .read ∧ (off = 0x4 ∨ off = 0x18))) ∧
    (meaningful 0x3FFFF .byte = true ∧ meaningful 0x4 .word = true) ∧ AccessOp.write 7 ≠ .read := by decide

/-- The unwritten first byte of OBUF, and the last offset of the space. -/
theorem witness_HostReadsHaveNoSideEffects : (turn (.access 0x20000 .byte .read) idle).hazardOpen = false ∧
    meaningful 0x20000 .byte = true ∧ idle.obuf.read 0 = none ∧ 0x3FFFF < 0x40000 ∧ meaningful 0x3FFFF .byte = true := by decide

/-- Each clause at the ends of its range, in a state with no hazard. -/
theorem witness_RegisterReadsFollowTheAddressMap : (turn (.access 0x3C .word .read) idle).hazardOpen = false ∧
    (∀ off ∈ [0x1C, 0x3C, 0x80, 0xFFFC, 0x11000, 0x1FFFC, 0x21000, 0x2FFFC, 0x30000, 0x3FFFC], off % 4 = 0 ∧
      ReservedOffset idle off) ∧
    (∀ off ∈ [0x1C, 0x3F, 0x80, 0xFFFF, 0x11000, 0x1FFFF, 0x21000, 0x2FFFF, 0x30000, 0x3FFFF], ReservedOffset idle off) ∧
    (∀ off ∈ [0x18, 0x40, 0x7F, 0x10FFF, 0x20FFF], ¬ ReservedOffset idle off) ∧ 0x7C = 0x40 + 4 * (15 : Fin 16).val := by decide

theorem witness_RegisterWritesFollowTheAddressMap : (turn (.access 0x10 .word (.write 1)) idle).hazardOpen = false ∧
    (∀ off ∈ [0x4, 0x18, 0x1C, 0x3C, 0x80, 0xFFFC, 0x11000, 0x1FFFC, 0x20000, 0x2FFFC, 0x30000, 0x3FFFC], off % 4 = 0 ∧
      (off ∈ [0x4, 0x8, 0xC, 0x14, 0x18] ∨ (0x20000 ≤ off ∧ off < 0x30000) ∨ ReservedOffset idle off)) ∧
    (∀ off ∈ [0x1C, 0x3F, 0x1FFFF, 0x20000, 0x2FFFF, 0x3FFFF],
      (0x20000 ≤ off ∧ off < 0x30000) ∨ ReservedOffset idle off) := by decide

/-- The first and the last word of the window, and four written bytes; and, with a BUF_BYTES that is not a multiple of 4, the word
that crosses it: its lane 0 is written, its lane 1 is above. -/
theorem witness_BufferAccessesUseTheLaneOrder : (turn (.access 0x10000 .word .read) idle).hazardOpen = false ∧
    (∀ i ∈ [0, 4092, 0xFFFC], i < 0x10000 ∧ i % 4 = 0) ∧ 4092 + 3 < idle.bufBytes ∧ 4095 < idle.bufBytes ∧
    (let s : State := turn (.access 0x10000 .word .read) { idle with ibuf := [(0, 1), (1, 2), (2, 3), (3, 4)], obuf := [(0, 5)] }
     s.hazardOpen = false ∧ s.ibuf.read 0 = some 1 ∧ s.ibuf.read 1 = some 2 ∧ s.ibuf.read 2 = some 3 ∧ s.ibuf.read 3 = some 4 ∧
     s.obuf.read 0 = some 5) ∧
    (let s : State := turn (.access 0x21000 .word .read) { idle with bufsz := 4097, obuf := [(4096, 9)] }
     s.hazardOpen = false ∧ (0x20000, s.obuf) ∈ [(0x10000, s.ibuf), (0x20000, s.obuf)] ∧ s.obuf.read (4096 + 0) = some 9 ∧
     4096 + 0 < s.bufBytes ∧ s.bufBytes ≤ 4096 + 1) := by decide

theorem witness_AccessesWithoutMeaningAreRefused : (turn (.access 0x1B .byte .read) idle).hazardOpen = false ∧
    (∀ off ∈ [0x0, 0x1B, 0x40, 0x7F], off < 0x40000 ∧ (off < 0x1C ∨ (0x40 ≤ off ∧ off < 0x80))) ∧
    (∀ off ∈ [0x1, 0x3FFFF], off < 0x40000 ∧ off % 4 ≠ 0) ∧ 0x40000 ≤ 0x40000 := by decide

/-- The base address itself, by the bus. -/
theorem witness_bus_turn : (turn (.bus Config.codecBase .word .read) idle).agenda = .bus Config.codecBase .word .read :: [] ∧
    Config.codecBase ≤ Config.codecBase := ⟨rfl, Nat.le_refl _⟩

/-- The last bit of the last byte. -/
theorem witness_InetSeesEverySingleBitFlip : 2 < ([1, 2, 3] : Bytes).length ∧ 7 < 8 ∧
    inet (([1, 2, 3] : Bytes).set 2 (byteAt [1, 2, 3] 2 ^^^ (1#8 <<< 7))) ≠ inet [1, 2, 3] := by decide +kernel

theorem witness_Crc32GivesTheCrcOfTheInput : LastUnwritten ∧ InputIs (loaded []) [] ∧ InputIs (loaded (zeros 4096)) (zeros 4096) :=
  ⟨by decide, loaded_inputIs _ (by decide), loaded_inputIs _ (Nat.le_of_eq List.length_replicate)⟩

theorem witness_InetGivesTheChecksumOfTheInput : LastUnwritten ∧ InputIs (loaded [1]) [1] ∧ InputIs (loaded (zeros 4096)) (zeros 4096) :=
  ⟨by decide, loaded_inputIs _ (by decide), loaded_inputIs _ (Nat.le_of_eq List.length_replicate)⟩

theorem witness_InetphGivesTheChecksumWithPseudoHeader :
    LastUnwritten ∧ InputIs (loaded [1]) [1] ∧ InputIs (loaded (zeros 4096)) (zeros 4096) :=
  ⟨by decide, loaded_inputIs _ (by decide), loaded_inputIs _ (Nat.le_of_eq List.length_replicate)⟩

/-- Payloads of 46 bytes, and of the first 1500 bytes of 1501; and the first selector above 4. -/
theorem witness_EthEncBuildsTheFrame : Config.legalBufBytes idle.bufBytes ∧ 4 < (5 : Word).toNat ∧
    FirstUnwritten (partly [1, 2] 3) 0 (min (partly [1, 2] 3).n 1500) 2 ∧
    ((zeros 46).length = min (loaded (zeros 46)).n 1500 ∧ IbufHolds (loaded (zeros 46)) 0 (zeros 46)) ∧
    ((zeros 1500).length = min (partly (zeros 1500 ++ [1]) 1501).n 1500 ∧
      (partly (zeros 1500 ++ [1]) 1501).n ≤ (partly (zeros 1500 ++ [1]) 1501).bufBytes ∧
      IbufHolds (partly (zeros 1500 ++ [1]) 1501) 0 (zeros 1500)) := by
  refine ⟨by decide, by decide, by decide, ⟨List.length_replicate, (loaded_inputIs (zeros 46) (by decide)).2.2⟩, ?_, ?_, ?_⟩
  · exact List.length_replicate
  · show (BitVec.ofNat 16 1501).toNat ≤ 4096
    decide
  · exact partly_holds _ _ _

/-- The header's last byte and the trailer's last byte unwritten; and a written 64-byte frame. -/
theorem witness_EthDecGivesTheFields :
    ((lengthOnly 63).n ≤ (lengthOnly 63).bufBytes ∧ (lengthOnly 63).n < 64) ∧
    FirstUnwritten (partly (zeros 13) 64) 0 14 13 ∧
    ((partly (zeros 63) 64).n ≤ (partly (zeros 63) 64).bufBytes ∧ 64 ≤ (partly (zeros 63) 64).n ∧ (zeros 14).length = 14 ∧
      IbufHolds (partly (zeros 14 ++ zeros 49) 64) 0 (zeros 14) ∧ FirstUnwritten (partly (zeros 63) 64) (64 - 4) 64 63) ∧
    ((frame.take 14).length = 14 ∧ HeaderIs (loaded frame) frame ∧ frame = frame.take 60 ++ [0x28, 0x69, 0x02, 0xB9]) :=
  ⟨by decide, partly_first (zeros 13) 64 0 14 (by decide) (by decide),
    ⟨by decide, by decide, by decide, partly_holds _ _ _, partly_first (zeros 63) 64 60 64 (by decide) (by decide)⟩,
    by decide, ⟨by decide, (loaded_inputIs frame (by decide)).2⟩, by decide⟩

theorem witness_EthChkComparesTheTrailer :
    ((lengthOnly 63).n ≤ (lengthOnly 63).bufBytes ∧ (lengthOnly 63).n < 64) ∧
    FirstUnwritten (partly (zeros 63) 64) 0 64 63 ∧
    64 ≤ (loaded (zeros 60 ++ [1, 2, 3, 4])).n ∧ InputIs (loaded (zeros 60 ++ [1, 2, 3, 4])) (zeros 60 ++ [1, 2, 3, 4]) :=
  ⟨by decide, partly_first (zeros 63) 64 0 64 (by decide) (by decide), by decide, loaded_inputIs _ (by decide)⟩

theorem witness_ArpEncBuildsThePacket : Config.legalBufBytes (lengthOnly 4097).bufBytes := by decide

theorem witness_ArpDecGivesTheFields : HeaderClausesMet 28 :=
  headerClausesMet 28 (by decide) (by decide)

theorem witness_NdpEncBuildsThePacket : LastUnwritten ∧ OutputClausesMet 24 :=
  ⟨by decide, outputClausesMet 24 (by decide) (by decide)⟩

theorem witness_NdpDecGivesTheFields : HeaderClausesMet 24 :=
  headerClausesMet 24 (by decide) (by decide)

theorem witness_IcmpEncBuildsThePacket : LastUnwritten ∧ OutputClausesMet 8 :=
  ⟨by decide, outputClausesMet 8 (by decide) (by decide)⟩

theorem witness_IcmpAndUdpDecGiveTheFields : HeaderClausesMet 8 :=
  headerClausesMet 8 (by decide) (by decide)

theorem witness_IcmpChkComparesTheChecksum :
    ((lengthOnly 7).n ≤ (lengthOnly 7).bufBytes ∧ (lengthOnly 7).n < 8) ∧
    FirstUnwritten (partly (zeros 7) 8) 0 (partly (zeros 7) 8).n 7 ∧ 8 ≤ (loaded icmpPacket).n ∧
    InputIs (loaded icmpPacket) ([0x08, 0x00] ++ [0x21, 0x04] ++ icmpPacket.drop 4) ∧
    0x2104 = inet ([0x08, 0x00] ++ [0, 0] ++ icmpPacket.drop 4) := by decide +kernel

/-- Options lengths 0 and 40, and each bound exceeded by the least amount. -/
theorem witness_Ip4EncBuildsThePacket :
    (let s := (loaded (zeros 44)).setFs [(10, 40)]; (s.freg 10).toNat = 40 ∧ 40 ≤ s.n ∧ 20 + s.n ≤ s.bufBytes ∧
      InputIs s (zeros 40 ++ zeros 4)) ∧
    (let s := loaded [7]; (s.freg 10).toNat = 0 ∧ InputIs s ([] ++ [7])) ∧
    (let s := (partly (zeros 4) 5).setFs [(10, 4)]; 4 ≤ s.n ∧ FirstUnwritten s 0 s.n 4) ∧
    (let s := (lengthOnly 44).setFs [(10, 44)]; 40 < (s.freg 10).toNat) ∧
    (let s := (lengthOnly 44).setFs [(10, 3)]; (s.freg 10).toNat % 4 ≠ 0) ∧
    (let s := (lengthOnly 3).setFs [(10, 4)]; s.n < (s.freg 10).toNat) ∧
    (let s := lengthOnly 4077; s.bufBytes < 20 + s.n) := by decide +kernel

/-- A 20-byte header with IHL 5, and one with IHL 15 in an input that is too short for it. -/
theorem witness_Ip4DecGivesTheFields : HeaderClausesMet 20 ∧
    (let h := ip4Packet.take 20; h.length = 20 ∧ HeaderIs (loaded ip4Packet) h ∧
      20 = max 20 (((byteAt h 0).toNat &&& 0x0F) * 4) ∧ 40 = beVal (seg h 2 4) ∧ 20 ≤ (loaded ip4Packet).n) ∧
    (let h := (zeros 20).set 0 0x4F; h.length = 20 ∧ HeaderIs (partly h 59) h ∧
      60 = max 20 (((byteAt h 0).toNat &&& 0x0F) * 4) ∧ (partly h 59).n < 60) := by decide +kernel

theorem witness_Ip4ChkComparesTheHeaderChecksum :
    ((lengthOnly 19).n ≤ (lengthOnly 19).bufBytes ∧ (lengthOnly 19).n < 20) ∧ FirstUnwritten (lengthOnly 20) 0 1 0 ∧
    (let s := partly [0x4F] 59; 20 ≤ s.n ∧ s.ibuf.read 0 = some 0x4F ∧ 60 = max 20 (((0x4F : Byte).toNat &&& 0x0F) * 4) ∧ s.n < 60) ∧
    (let s := partly (0x45 :: zeros 18) 20; s.ibuf.read 0 = some 0x45 ∧ FirstUnwritten s 0 20 19) ∧
    (let s := loaded ip4Packet; s.ibuf.read 0 = some 0x45 ∧ 20 ≤ s.n ∧ (ip4Packet.take 10).length = 10 ∧
      IbufHolds s 0 (ip4Packet.take 10 ++ [0x9C, 0x71] ++ seg ip4Packet 12 20) ∧
      (ip4Packet.take 10 ++ [0x9C, 0x71] ++ seg ip4Packet 12 20).length = 20) := by decide +kernel

theorem witness_Ip6EncBuildsThePacket : LastUnwritten ∧ OutputClausesMet 40 :=
  ⟨by decide, outputClausesMet 40 (by decide) (by decide)⟩

theorem witness_Ip6DecGivesTheFields : HeaderClausesMet 40 :=
  headerClausesMet 40 (by decide) (by decide)

/-- As for IPv4, with the offset word of 40 bytes of options and all flags. -/
theorem witness_TcpEncBuildsTheSegment :
    (let s := (loaded (zeros 44)).setFs [(4, 0xFFF), (10, 40)]; (s.freg 10).toNat = 40 ∧ 40 ≤ s.n ∧ 20 + s.n ≤ s.bufBytes ∧
      0xF1FF = ((5 + 40 / 4) <<< 12 ||| ((s.freg 4).toNat &&& 0x1FF)) ∧ InputIs s (zeros 44)) ∧
    (let s := (partly (zeros 4) 5).setFs [(10, 4)]; 4 ≤ s.n ∧ FirstUnwritten s 0 s.n 4) ∧
    (let s := (lengthOnly 44).setFs [(10, 44)]; 40 < (s.freg 10).toNat) ∧
    (let s := (lengthOnly 44).setFs [(10, 3)]; (s.freg 10).toNat % 4 ≠ 0) ∧
    (let s := (lengthOnly 3).setFs [(10, 4)]; s.n < (s.freg 10).toNat) ∧
    (let s := lengthOnly 4077; s.bufBytes < 20 + s.n) := by decide +kernel

theorem witness_TcpDecGivesTheFields : HeaderClausesMet 20 ∧
    (let h := tcpSegment.take 20; h.length = 20 ∧ HeaderIs (loaded tcpSegment) h ∧
      24 = max 20 (((byteAt h 12).toNat >>> 4) * 4) ∧ 24 ≤ (loaded tcpSegment).n) ∧
    (let h := (zeros 20).set 12 0xF0; h.length = 20 ∧ HeaderIs (partly h 59) h ∧
      60 = max 20 (((byteAt h 12).toNat >>> 4) * 4) ∧ (partly h 59).n < 60) := by decide +kernel

theorem witness_TcpChkComparesTheChecksum :
    ((lengthOnly 19).n ≤ (lengthOnly 19).bufBytes ∧ (lengthOnly 19).n < 20) ∧ FirstUnwritten (partly (zeros 12) 20) 12 13 12 ∧
    (let s := partly ((zeros 13).set 12 0xF0) 59; 20 ≤ s.n ∧ s.ibuf.read 12 = some 0xF0 ∧
      60 = max 20 (((0xF0 : Byte).toNat >>> 4) * 4) ∧ s.n < 60) ∧
    (let s := partly (tcpSegment.take 25) 26; s.ibuf.read 12 = some 0x61 ∧ FirstUnwritten s 0 s.n 25) ∧
    (let s := loaded tcpSegment; s.ibuf.read 12 = some 0x61 ∧ 24 = max 20 (((0x61 : Byte).toNat >>> 4) * 4) ∧ 24 ≤ s.n ∧
      InputIs s (tcpSegment.take 16 ++ [0x19, 0xB9] ++ tcpSegment.drop 18)) := by decide +kernel

theorem witness_UdpEncBuildsTheDatagram : LastUnwritten ∧ OutputClausesMet 8 :=
  ⟨by decide, outputClausesMet 8 (by decide) (by decide)⟩

theorem witness_UdpChkComparesTheChecksum :
    ((lengthOnly 7).n ≤ (lengthOnly 7).bufBytes ∧ (lengthOnly 7).n < 8) ∧
    FirstUnwritten (partly (zeros 7) 8) 0 (partly (zeros 7) 8).n 7 ∧ 8 ≤ (loaded udpDatagram).n ∧
    InputIs (loaded udpDatagram) (udpDatagram.take 6 ++ [0x10, 0x51] ++ udpDatagram.drop 8) := by decide +kernel

theorem witness_TlsAndDnsEncBuildTheMessage : LastUnwritten ∧ OutputClausesMet 5 ∧ OutputClausesMet 12 :=
  ⟨by decide, outputClausesMet 5 (by decide) (by decide), outputClausesMet 12 (by decide) (by decide)⟩

theorem witness_TlsAndDnsDecGiveTheFields : HeaderClausesMet 5 ∧ HeaderClausesMet 12 :=
  ⟨headerClausesMet 5 (by decide) (by decide), headerClausesMet 12 (by decide) (by decide)⟩

theorem witness_XferCopiesTheOutputToTheInput : Inv { started with olen := 1, obuf := [(0, 5)] } := by
  constructor <;> first | exact rfl | decide

/-- The hypotheses of the whole-exchange statements, met for each ENC command. -/
theorem witness_Exchanges : Config.legalBufBytes started.bufBytes ∧
    ∀ enc ∈ encCommands, enc ≠ .ip4Enc → after (exec enc (loaded [1, 2, 3])) (fun t => !t.busy && t.err == .ok) = true := by
  decide +kernel

/-- And for IPv4 with an IHL that describes 4 bytes of options, and a total length that is the packet's. -/
theorem witness_Exchange_ip4 : let s := (loaded [1, 2, 3, 4, 5]).setFs [(0, 0x46), (2, 25), (10, 4)]
    (s.freg 0).toNat % 16 * 4 = 20 + (s.freg 10).toNat ∧
    ¬ (20 + (s.freg 10).toNat ≤ (s.freg 2).toNat % 2 ^ 16 ∧ (s.freg 2).toNat % 2 ^ 16 < 20 + s.n) ∧
    after (exec .ip4Enc s) (fun t => !t.busy && t.err == .ok) = true := by decide +kernel

/-- The end of a run (R264): a turn left that is no host access does not keep the run from it, a host access does. -/
theorem test_ended : State.ended { idle with done := true, agenda := [.reset] } ∧
    ¬ State.ended { idle with done := true, agenda := [.wait] } ∧ ¬ State.ended { idle with done := true, window := true } ∧
    ¬ State.ended (turn .reset { idle with done := true }).blockReset := by
  decide

end Sys2Proof.Tests
end

section
/-! PROOFS. What each command may write, the invariant of the block over its operations and over a step (00_scope.md R1,
10_state.md R22 to R39, 46_control.md R230, 60_exceptions.md R244, 70_reset_and_hazards.md R262), and ETH.ENC (41_ethernet.md R123). -/

namespace Sys2Proof.Machine

/-! ### What a command's pseudocode may write (30_encoding.md R89) -/

/-- Every value that pseudocode `r` answers has `P`; of an `r` that raises or stops, nothing is said. -/
def Answers {α : Type} (P : α → Prop) (r : Cmd α) : Prop := ∀ a, r = .ok a → P a

theorem Answers.pure {α : Type} {P : α → Prop} {a : α} (h : P a) : Answers P (pure a) := by
  intro b hb
  cases hb
  exact h

theorem Answers.bind {α β : Type} {P : β → Prop} {r : Cmd α} {k : α → Cmd β} (h : ∀ a, r = .ok a → Answers P (k a)) :
    Answers P (r >>= k) := by
  intro b hb
  obtain ⟨a, ha, hk⟩ := cmd_bind_ok hb
  exact h a ha b hk

/-- The state `emit` answers (R91): `out` at OBUF[0], its length in OLEN. -/
def State.withOutput (s : State) (out : Bytes) : State :=
  { s with obuf := s.obuf.writeSeq 0 out, olen := BitVec.ofNat 16 out.length }

@[simp] theorem State.withOutput_busy (s : State) (out : Bytes) : (s.withOutput out).busy = s.busy := rfl
@[simp] theorem State.withOutput_stuckAt (s : State) (out : Bytes) : (s.withOutput out).stuckAt = s.stuckAt := rfl
@[simp] theorem State.withOutput_obuf (s : State) (out : Bytes) : (s.withOutput out).obuf = s.obuf.writeSeq 0 out := rfl

/-- The state at the end of command `i`'s pseudocode, begun in `s` and before STATUS is written: each family of commands writes its
own outputs (R89), an ENC an output that fits (R91), XFER the output that OBUF holds (46_control.md R230). -/
inductive CommandWrites (i : Instr) (s : State) : State → Prop where
  | sum (hi : i ∈ sumCommands) (v : Word) : CommandWrites i s (s.setCsum v)
  | enc (hi : i ∈ encCommands) (out : Bytes) (ws : List (Fin 16 × Word)) (fits : out.length ≤ s.bufBytes) :
      CommandWrites i s ((s.withOutput out).setFs ws)
  | dec (hi : i ∈ decCommands) (ws : List (Fin 16 × Word)) : CommandWrites i s (s.setFs ws)
  | val (hi : i ∈ valCommands) (b : Bool) : CommandWrites i s (s.setResult b)
  | chk (hi : i ∈ chkCommands) (v : Word) (b : Bool) : CommandWrites i s ((s.setCsum v).setResult b)
  | xfer (hi : i = .xfer) (d : Bytes) (read : readObuf s 0 s.olen.toNat = .ok d) :
      CommandWrites i s { s with ibuf := s.ibuf.writeSeq 0 d, ilen := s.olen }

/-- `emit` at the end of an ENC (R91). -/
theorem Answers.emit {i : Instr} (hi : i ∈ encCommands) {s : State} {out : Bytes} {ws : List (Fin 16 × Word)}
    {k : State → Cmd State} (hk : ∀ t, k t = .ok (t.setFs ws)) : Answers (CommandWrites i s) (Machine.emit s out >>= k) := by
  refine .bind fun t ht => ?_
  obtain ⟨fits, rfl⟩ := emit_inv ht
  rw [hk]
  exact .pure (.enc hi out ws fits)

/-- Every command is pseudocode under `finish`, and what the pseudocode writes is its family's (R89). -/
theorem exec_eq_finish (i : Instr) (s : State) : ∃ r, exec i s = finish s r ∧ Answers (CommandWrites i s) r := by
  cases i with
  | crc32 | inet | inetph =>
    exact ⟨_, rfl, .bind fun _ _ => .bind fun _ _ => .pure (.sum (by decide) _)⟩
  | arpVal | ndpVal | icmpVal | ip4Val | ip6Val | tcpVal | udpVal | tlsVal | dnsVal =>
    exact ⟨_, rfl, .pure (.val (by decide) _)⟩
  | ethChk | icmpChk | udpChk =>
    exact ⟨_, rfl, .bind fun _ _ => .bind fun _ _ => .bind fun _ _ => .pure (.chk (by decide) _ _)⟩
  | ip4Chk | tcpChk =>
    exact ⟨_, rfl, .bind fun _ _ => .bind fun _ _ => .bind fun _ _ => .bind fun _ _ => .bind fun _ _ =>
      .pure (.chk (by decide) _ _)⟩
  | arpDec | ndpDec | icmpDec | ip6Dec | udpDec | tlsDec | dnsDec =>
    exact ⟨_, rfl, .bind fun _ _ => .bind fun _ _ => .bind fun _ _ => .pure (.dec (by decide) _)⟩
  | ethDec | ip4Dec | tcpDec =>
    exact ⟨_, rfl, .bind fun _ _ => .bind fun _ _ => .bind fun _ _ => .bind fun _ _ => .pure (.dec (by decide) _)⟩
  | arpEnc =>
    refine ⟨_, rfl, fun t ht => ?_⟩
    obtain ⟨fits, rfl⟩ := emit_inv ht
    exact .enc (by decide) _ [] fits
  | ethEnc | ndpEnc | icmpEnc | ip6Enc =>
    exact ⟨_, rfl, .bind fun _ _ => .bind fun _ _ => .emit (by decide) fun _ => rfl⟩
  | udpEnc | tlsEnc | dnsEnc =>
    exact ⟨_, rfl, .bind fun _ _ => .bind fun _ _ => .bind fun _ _ => .emit (by decide) fun _ => rfl⟩
  | ip4Enc | tcpEnc =>
    exact ⟨_, rfl, .bind fun _ _ => .bind fun _ _ => .bind fun _ _ => .bind fun _ _ => .bind fun _ _ =>
      .emit (by decide) fun _ => rfl⟩
  | xfer => exact ⟨_, rfl, .bind fun d hd => .pure (.xfer rfl d hd)⟩

/-- The three ends of a command: its family's writes and OK, an error code alone, or the engine fault (10_state.md R26,
60_exceptions.md R241, R244). -/
theorem exec_cases {i : Instr} {s t : State} (h : exec i s = .next t) :
    (∃ u, CommandWrites i s u ∧ t = u.complete .ok) ∨ (∃ e, t = s.complete (errorCode e)) ∨ ∃ b, t = s.engineFault b := by
  obtain ⟨r, hr, hw⟩ := exec_eq_finish i s
  rw [hr] at h
  obtain ⟨u, hu, rfl⟩ | ⟨e, -, rfl⟩ | ⟨b, -, rfl⟩ := finish_cases h
  · exact .inl ⟨u, hw u hu, rfl⟩
  · exact .inr (.inl ⟨e, rfl⟩)
  · exact .inr (.inr ⟨b, rfl⟩)

/-- The record of a stop is no command's output (60_exceptions.md R244). -/
theorem CommandWrites.stuckAt {i : Instr} {s u : State} (h : CommandWrites i s u) : u.stuckAt = s.stuckAt := by
  cases h <;> simp

/-! ### The invariant over the operations of the state -/

section
variable {s : State}

/-- Every turn sees the same block (20_memory.md R50). -/
theorem Inv.setAgenda (h : Inv s) (a : List Turn) : Inv { s with agenda := a } := { h with }

/-- The value a read returns, the draws it used, and the window it leaves: kept while a command runs, else at most closed. -/
theorem Inv.setRead (h : Inv s) (v : Word) (n : Nat) {w : Bool} (hbusy : s.busy = true → w = true)
    (hclosed : s.window = false → w = false) : Inv { s with readData := v, draws := n, window := w } :=
  { h with
    busy_window := hbusy
    idle_fresh := fun hb hd => by
      obtain ⟨hcmd, hres, hcsum, holen, hobuf, hwin⟩ := h.idle_fresh hb hd
      exact ⟨hcmd, hres, hcsum, holen, hobuf, hclosed hwin⟩ }

/-- FAULT is only ever set (10_state.md R42). -/
theorem Inv.setFault (h : Inv s) : Inv { s with fault := true } :=
  { h with stuck_busy := fun hs => ⟨(h.stuck_busy hs).1, rfl⟩ }

theorem Inv.setF (h : Inv s) (k : Fin 16) (v : Word) : Inv (s.setF k v) := { h with }

theorem Inv.setFs (h : Inv s) (ws : List (Fin 16 × Word)) : Inv (s.setFs ws) := by
  induction ws generalizing s with
  | nil => exact h
  | cons w ws ih => exact ih (h.setF w.1 w.2)

/-- ILEN may hold any 16 bits, IBUF any canonical bytes inside the buffer (10_state.md R30, R36). -/
theorem Inv.setInput (h : Inv s) {m : Memory} (n : Half) (hwf : m.wf) (hin : m.within s.bufBytes) :
    Inv { s with ibuf := m, ilen := n } :=
  { h with ibuf_wf := hwf, ibuf_within := hin }

/-- CSUM and RESULT are free of the invariant once a command runs. -/
theorem Inv.setCsum (h : Inv s) (hb : s.busy = true) (v : Word) : Inv (s.setCsum v) :=
  { h with idle_fresh := by simp [hb] }

theorem Inv.setResult (h : Inv s) (hb : s.busy = true) (b : Bool) : Inv (s.setResult b) :=
  { h with idle_fresh := by simp [hb] }

/-- The length of an output that fits BUF_BYTES has a place in OLEN (00_scope.md R1, 10_state.md R31). -/
theorem Inv.toNat_outputLength (h : Inv s) {out : Bytes} (fits : out.length ≤ s.bufBytes) :
    (BitVec.ofNat 16 out.length).toNat = out.length := by
  have hle : s.bufBytes ≤ 65535 := h.bufsz_legal.2
  rw [BitVec.toNat_ofNat]
  omega

/-- An output that fits leaves OBUF written below OLEN (46_control.md R230). -/
theorem Inv.withOutput (h : Inv s) (hb : s.busy = true) {out : Bytes} (fits : out.length ≤ s.bufBytes) :
    Inv (s.withOutput out) :=
  have hlen := h.toNat_outputLength fits
  { h with
    obuf_wf := Memory.wf_writeSeq 0 out h.obuf_wf
    obuf_within := Memory.within_writeSeq 0 out h.obuf_within ((Nat.zero_add _).trans_le fits)
    olen_le := hlen.trans_le fits
    obuf_written := fun a ha => by
      have ha' : a < out.length := hlen ▸ ha
      simp [Memory.read_writeSeq_zero, ha']
    idle_fresh := by simp [hb] }

/-- A completion leaves the block idle with DONE = 1 (10_state.md R26). -/
theorem Inv.complete (h : Inv s) (hs : s.stuckAt = none) {c : Code} (hc : c ≠ .invalidFormat) : Inv (s.complete c) :=
  { h with
    not_busy_done := by simp
    err_ok := by simp
    err_legal := hc
    busy_window := by simp
    stuck_busy := fun hn => absurd hs hn
    idle_fresh := by simp }

/-- The engine fault leaves its command running for ever (60_exceptions.md R244). -/
theorem Inv.engineFault (h : Inv s) (hb : s.busy = true) (r : ByteRef) : Inv (s.engineFault r) :=
  { h with
    stuck_busy := fun _ => ⟨hb, rfl⟩
    idle_fresh := by simp [hb] }

/-- The CMD write that starts a command (20_memory.md R58). -/
theorem Inv.startCommand (h : Inv s) (v : Word) : Inv (s.startCommand v) :=
  { h with
    not_busy_done := by simp
    err_ok := fun _ => rfl
    err_legal := by simp
    busy_window := fun _ => rfl
    stuck_busy := fun hn => ⟨rfl, (h.stuck_busy hn).2⟩
    idle_fresh := by simp }

/-- Reset brings the block back to its fresh state (70_reset_and_hazards.md R260). -/
theorem Inv.blockReset (h : Inv s) : Inv s.blockReset where
  bufsz_legal := h.bufsz_legal
  rom := h.rom
  ibuf_wf := .nil
  ibuf_within := by simp
  obuf_wf := .nil
  obuf_within := by simp
  olen_le := Nat.zero_le _
  obuf_written := fun a ha => absurd ha (Nat.not_lt_zero a)
  not_busy_done := by simp
  err_ok := fun _ => rfl
  err_legal := by simp
  busy_window := by simp
  stuck_busy := by simp
  idle_fresh := fun _ _ => ⟨rfl, rfl, rfl, rfl, rfl, rfl⟩

/-! ### The invariant over a step -/

/-- What a running command writes keeps the invariant. -/
theorem Inv.commandWrites (h : Inv s) (hb : s.busy = true) {i : Instr} {u : State} (hw : CommandWrites i s u) : Inv u := by
  cases hw with
  | sum _ v => exact h.setCsum hb v
  | enc _ out ws fits => exact (h.withOutput hb fits).setFs ws
  | dec _ ws => exact h.setFs ws
  | val _ b => exact h.setResult hb b
  | chk _ v b => exact (h.setCsum hb v).setResult hb b
  | xfer _ d read =>
    have hd : d.length = s.olen.toNat := (memRead_inv read).1
    have hfit : 0 + d.length ≤ s.bufBytes := by have := h.olen_le; omega
    exact h.setInput s.olen (Memory.wf_writeSeq 0 d h.ibuf_wf) (Memory.within_writeSeq 0 d h.ibuf_within hfit)

/-- The run of a command keeps the invariant, however it ends. -/
theorem Inv.exec (h : Inv s) (hb : s.busy = true) (hs : s.stuckAt = none) {i : Instr} {t : State}
    (ht : Machine.exec i s = .next t) : Inv t := by
  obtain ⟨u, hw, rfl⟩ | ⟨e, rfl⟩ | ⟨b, rfl⟩ := exec_cases ht
  · exact (h.commandWrites hb hw).complete (hw.stuckAt.trans hs) (by decide)
  · exact h.complete hs (errorCode_ne_invalidFormat e)
  · exact h.engineFault hb b

theorem Inv.engineStep (h : Inv s) {t : State} (ht : Machine.engineStep s = .next t) : Inv t := by
  obtain ⟨-, rfl⟩ | ⟨hb, hs, ⟨i, -, hx⟩ | ⟨-, rfl⟩⟩ := engineStep_cases ht
  · exact h
  · exact h.exec hb hs hx
  · exact h.complete hs (by decide)

/-- A host read may close the window of a completed command, and changes nothing else of the block (20_memory.md R58). -/
theorem Inv.hostRead (h : Inv s) (off : Nat) (w : Width) : Inv (Machine.hostRead s off w) := by
  rw [hostRead_eq]
  refine h.setRead _ _ (fun hb => ?_) fun hw => ?_
  · simp [hostRead_window, h.busy_window hb, hb]
  · simp [hostRead_window, hw]

theorem Inv.hostWrite (h : Inv s) (off : Nat) (w : Width) (v : Word) : Inv (Machine.hostWrite s off w v) := by
  obtain ⟨-, hc⟩ | ⟨-, hc⟩ | ⟨k, -, hc⟩ | ⟨i, -, hc⟩ | hc := hostWrite_cases s off w v <;> rw [hc]
  · exact h.startCommand v
  · exact h.setInput _ h.ibuf_wf h.ibuf_within
  · exact h.setF k v
  · obtain ⟨hwf, hin⟩ := wf_hostIbufWrite w i v h.ibuf_wf h.ibuf_within
    rw [hostIbufWrite_eq]
    exact h.setInput s.ilen hwf hin
  · exact h

/-- A violation of the busy window sets FAULT (70_reset_and_hazards.md R262); a CMD write before the poll starts its command besides. -/
theorem Inv.hazardViolation (h : Inv s) (off : Nat) (w : Width) (op : AccessOp) :
    Inv (Machine.hazardViolation s off w op) := by
  obtain ⟨-, hc⟩ | ⟨-, -, v, -, hc⟩ := hazardViolation_cases s off w op <;> rw [hc]
  · exact h.setFault.setRead _ _ h.busy_window id
  · exact h.setFault.startCommand v

theorem Inv.hostAccess (h : Inv s) {off : Nat} {w : Width} {op : AccessOp} {t : State}
    (ht : Machine.hostAccess off w op s = .next t) : Inv t := by
  obtain ⟨-, -, ⟨-, -, rfl⟩ | ⟨-, ⟨-, rfl⟩ | ⟨v, -, rfl⟩⟩⟩ := hostAccess_cases ht
  · exact h.hazardViolation off w op
  · exact h.hostRead off w
  · exact h.hostWrite off w v

/-- An access at an absolute address is the access at its offset, when it gives a next state (00_scope.md R5). -/
theorem busAccess_next {base address : Nat} {w : Width} {op : AccessOp} {s t : State}
    (h : busAccess base address w op s = .next t) : base ≤ address ∧ hostAccess (address - base) w op s = .next t := by
  unfold busAccess at h
  split at h
  · cases h
  · next hb => exact ⟨Nat.not_lt.1 hb, h⟩

/-- WAIT polls STATUS, and so never closes the window of a running command (30_encoding.md R87). -/
theorem Inv.hostWait (h : Inv s) : Inv (Machine.hostWait s) := by
  rw [hostWait_eq]
  refine (h.setRead s.statusWord s.draws (fun hb => ?_) fun hw => ?_).setAgenda _
  · simp [h.busy_window hb, hb]
  · simp [hw]

theorem Inv.takeTurn (h : Inv s) {base : Nat} {turn : Turn} {t : State} (ht : Machine.takeTurn base turn s = .next t) :
    Inv t := by
  cases turn with
  | access off w op => exact h.hostAccess ht
  | bus address w op => exact h.hostAccess (busAccess_next ht).2
  | wait => cases ht; exact h.hostWait
  | engine => exact h.engineStep ht
  | reset => cases ht; exact h.blockReset

end

/-- Settles O5: a step is the engine's or a turn's, and each of their operations keeps the invariant. -/
theorem stepKeepsTheInvariant : Obligations.StepKeepsTheInvariant := by
  intro s t h ht
  obtain ⟨-, hengine⟩ | ⟨turn, rest, -, hturn⟩ := step_cases ht
  · exact h.engineStep hengine
  · exact (h.setAgenda rest).takeTurn hturn

/-! ### ETH.ENC (41_ethernet.md R122, R123) -/

/-- An ENC whose pseudocode has come to its `emit`, with an output that fits (30_encoding.md R91). -/
theorem completes_of_emit {i : Instr} {s : State} {out : Bytes} {ws : List (Fin 16 × Word)} {r : Cmd State}
    (he : exec i s = finish s r) (hr : r = emit s out >>= fun t => pure (t.setFs ws)) (fits : out.length ≤ s.bufBytes)
    (hd : (ws.map Prod.fst).Nodup) : Completes i s { out := some out, regs := ws } := by
  refine completes_of he ?_ (leaves_out s out ws hd)
  rw [hr, emit_ok fits]
  rfl

/-- Every selector above 4 emits 0 (R122). -/
theorem etherType_of_gt {v : Word} (h : 4 < v.toNat) : etherType v = 0 := by
  have hne : ∀ k : Word, k.toNat ≤ 4 → v ≠ k := by
    rintro k hk rfl
    omega
  rw [etherType, if_neg (hne 0 (by decide)), if_neg (hne 1 (by decide)), if_neg (hne 2 (by decide)),
    if_neg (hne 3 (by decide)), if_neg (hne 4 (by decide))]

@[simp] theorem ethHeader_length (s : State) : (ethHeader s).length = 14 := by simp [ethHeader]

@[simp] theorem ethPad_length (p : Bytes) : (ethPad p).length = max p.length 46 := by
  simp only [ethPad, List.length_append, zeros_length]
  omega

/-- ETH.ENC after its reads: the frame is the body and its CRC, emitted, with F5 and F6 written (R123). -/
def ethEncTail (s : State) (p : Bytes) : Cmd State :=
  let body := ethHeader s ++ ethPad p
  emit s (body ++ be 4 (crc32 s.crcrom body).toNat) >>= fun t =>
    pure (t.setFs [(5, (etherType (s.freg 4)).setWidth 32), (6, crc32 s.crcrom body)])

theorem exec_ethEnc (s : State) : exec .ethEnc s =
    finish s (checkIlen s >>= fun n => readIbuf s 0 (min n 1500) >>= ethEncTail s) := rfl

/-- A frame has at most 1518 bytes, so every legal buffer holds it (R123, 00_scope.md R1). -/
theorem ethFrame_fits {s : State} {p : Bytes} (h : Config.legalBufBytes s.bufBytes) (hp : p.length ≤ 1500) (c : Word) :
    (ethHeader s ++ ethPad p ++ be 4 c.toNat).length ≤ s.bufBytes := by
  have hbuf : 1536 ≤ s.bufBytes := h.1
  simp only [List.length_append, ethHeader_length, ethPad_length, be_length]
  omega

theorem ethEnc_fails_of_ilen {s : State} (h : s.bufBytes < s.n) : Fails .ethEnc s .badArg :=
  fails_of_ilen (exec_ethEnc s) h

theorem ethEnc_faults {s : State} (h : s.n ≤ s.bufBytes) : FaultsWithin .ethEnc s 0 (min s.n 1500) := by
  intro k hk
  refine engineFaults_of (exec_ethEnc s) ?_
  rw [checkIlen_ok h, cmd_ok_bind, readIbuf_first_zero hk, cmd_error_bind]

theorem ethEnc_completes {s : State} {p : Bytes} (hbuf : Config.legalBufBytes s.bufBytes) (h : s.n ≤ s.bufBytes)
    (hp : p.length = min s.n 1500) (hold : IbufHolds s 0 p) :
    Completes .ethEnc s {
      out := some (ethHeader s ++ ethPad p ++ be 4 (crc32 s.crcrom (ethHeader s ++ ethPad p)).toNat)
      regs := [(5, (etherType (s.freg 4)).setWidth 32), (6, crc32 s.crcrom (ethHeader s ++ ethPad p))] } := by
  refine completes_of_emit (exec_ethEnc s) ?_ (ethFrame_fits hbuf (by omega) _) (by simp)
  rw [checkIlen_ok h, cmd_ok_bind, readIbuf_holds hold hp, cmd_ok_bind]
  rfl

/-- Settles O29: each end of ETH.ENC by its own lemma, and the frame's body as the header and the padded payload. -/
theorem ethEncBuildsTheFrame : Obligations.EthEncBuildsTheFrame := by
  refine ⟨rfl, ⟨rfl, rfl, rfl, rfl, rfl, fun _ => etherType_of_gt⟩, fun s hbuf =>
    ⟨ethEnc_fails_of_ilen, ethEnc_faults, fun p body h hp hold hbody => ?_⟩⟩
  have hframe : body = ethHeader s ++ ethPad p := by rw [hbody, ethPad, ← List.append_assoc]; rfl
  rw [hframe]
  exact ethEnc_completes hbuf h hp hold

end Sys2Proof.Machine
end

section
/-! PROOFS. How a step changes FAULT and BUSY (10_state.md R23, R42), and what a host write outside the busy window does at each
offset of the address map (10_state.md R30, R33, 20_memory.md R51, R54, R55). -/

namespace Sys2Proof.Machine

/-! ### FAULT and BUSY over the operations of the state -/

/-- FAULT is no command's output (10_state.md R42). -/
theorem CommandWrites.fault {i : Instr} {s u : State} (h : CommandWrites i s u) : u.fault = s.fault := by
  cases h <;> simp [State.withOutput]

section
variable (s : State) (off : Nat) (w : Width)

@[simp] theorem hostRead_fault : (hostRead s off w).fault = s.fault := by rw [hostRead_eq]
@[simp] theorem hostRead_busy : (hostRead s off w).busy = s.busy := by rw [hostRead_eq]

@[simp] theorem hostIbufWrite_fault (i : Nat) (v : Word) : (hostIbufWrite s w i v).fault = s.fault := by rw [hostIbufWrite_eq]
@[simp] theorem hostIbufWrite_busy (i : Nat) (v : Word) : (hostIbufWrite s w i v).busy = s.busy := by rw [hostIbufWrite_eq]

@[simp] theorem hostWait_fault : (hostWait s).fault = s.fault := by rw [hostWait_eq]
@[simp] theorem hostWait_busy : (hostWait s).busy = s.busy := by rw [hostWait_eq]

/-- FAULT marks accesses inside the busy window; a write outside it leaves FAULT (70_reset_and_hazards.md R262). -/
@[simp] theorem hostWrite_fault (v : Word) : (hostWrite s off w v).fault = s.fault := by
  obtain ⟨-, hc⟩ | ⟨-, hc⟩ | ⟨k, -, hc⟩ | ⟨i, -, hc⟩ | hc := hostWrite_cases s off w v <;> simp [hc]

end

/-! ### FAULT over a step (10_state.md R42) -/

theorem exec_fault_mono {i : Instr} {s t : State} (h : exec i s = .next t) (hf : s.fault = true) : t.fault = true := by
  obtain ⟨u, hw, rfl⟩ | ⟨e, rfl⟩ | ⟨b, rfl⟩ := exec_cases h
  · exact hw.fault.trans hf
  · exact hf
  · rfl

theorem engineStep_fault_mono {s t : State} (h : engineStep s = .next t) (hf : s.fault = true) : t.fault = true := by
  obtain ⟨-, rfl⟩ | ⟨-, -, ⟨i, -, hx⟩ | ⟨-, rfl⟩⟩ := engineStep_cases h
  · exact hf
  · exact exec_fault_mono hx hf
  · exact hf

theorem hostAccess_fault_mono {off : Nat} {w : Width} {op : AccessOp} {s t : State} (h : hostAccess off w op s = .next t)
    (hf : s.fault = true) : t.fault = true := by
  obtain ⟨-, -, ⟨-, -, rfl⟩ | ⟨-, ⟨-, rfl⟩ | ⟨v, -, rfl⟩⟩⟩ := hostAccess_cases h
  · exact hazardViolation_fault s off w op
  · exact (hostRead_fault s off w).trans hf
  · exact (hostWrite_fault s off w v).trans hf

theorem takeTurn_fault_mono {base : Nat} {turn : Turn} {s t : State} (h : takeTurn base turn s = .next t)
    (hf : s.fault = true) : t.fault = true := by
  cases turn with
  | access off w op => exact hostAccess_fault_mono h hf
  | bus address w op => exact hostAccess_fault_mono (busAccess_next h).2 hf
  | wait => cases h; exact (hostWait_fault s).trans hf
  | engine => exact engineStep_fault_mono h hf
  | reset => cases h; exact hf

/-- Settles O8: a step is the engine's or a turn's, and none of their operations clears FAULT, reset among them. -/
theorem faultIsNeverCleared : Obligations.FaultIsNeverCleared := by
  intro s t h hf
  obtain ⟨-, hengine⟩ | ⟨turn, rest, -, hturn⟩ := step_cases h
  · exact engineStep_fault_mono hengine hf
  · exact takeTurn_fault_mono hturn hf

/-! ### BUSY over a step (10_state.md R23) -/

/-- CMD is the word at offset 0 (20_memory.md R51). -/
theorem lt_of_target_eq_cmd {off : Nat} (h : target off = .cmd) : off < 4 := by
  unfold target at h
  split at h
  · split at h
    · omega
    all_goals cases h
  · repeat' split at h
    all_goals cases h

/-- The one access to CMD that the bus gives a meaning is the 32-bit one at offset 0 (R52, R56). -/
theorem word_zero_of_target_eq_cmd {off : Nat} {w : Width} (hm : meaningful off w = true) (h : target off = .cmd) :
    off = 0 ∧ w = .word := by
  cases w with
  | half => cases hm
  | byte => simp [meaningful, h] at hm
  | word =>
    have hlt := lt_of_target_eq_cmd h
    have hmod : off % 4 = 0 := by simpa [meaningful] using hm
    exact ⟨by omega, rfl⟩

/-- An ended command has cleared BUSY and set DONE; one stopped by an unwritten byte leaves BUSY (R26, 60_exceptions.md R244). -/
theorem exec_busy {i : Instr} {s t : State} (h : exec i s = .next t) :
    t.busy = s.busy ∨ t.busy = false ∧ t.done = true := by
  obtain ⟨u, -, rfl⟩ | ⟨e, rfl⟩ | ⟨b, rfl⟩ := exec_cases h
  · exact .inr ⟨rfl, rfl⟩
  · exact .inr ⟨rfl, rfl⟩
  · exact .inl rfl

/-- The engine changes BUSY by a completion alone (R23). -/
theorem engineStep_busy {s t : State} (h : engineStep s = .next t) :
    t.busy = s.busy ∨ t.busy = false ∧ t.done = true := by
  obtain ⟨-, rfl⟩ | ⟨-, -, ⟨i, -, hx⟩ | ⟨-, rfl⟩⟩ := engineStep_cases h
  · exact .inl rfl
  · exact exec_busy hx
  · exact .inr ⟨rfl, rfl⟩

/-- The one host access that changes BUSY is the 32-bit CMD write, and it sets BUSY (20_memory.md R58). -/
theorem hostAccess_busy {off : Nat} {w : Width} {op : AccessOp} {s t : State} (h : hostAccess off w op s = .next t) :
    t.busy = s.busy ∨ off = 0 ∧ w = .word ∧ op = .write t.cmd ∧ t.busy = true := by
  obtain ⟨-, hm, ⟨-, -, rfl⟩ | ⟨-, ⟨-, rfl⟩ | ⟨v, rfl, rfl⟩⟩⟩ := hostAccess_cases h
  · obtain ⟨-, hc⟩ | ⟨hcmd, -, v, rfl, hc⟩ := hazardViolation_cases s off w op
    · exact .inl (by rw [hc])
    · obtain ⟨hoff, hw⟩ := word_zero_of_target_eq_cmd hm hcmd
      exact .inr ⟨hoff, hw, by rw [hc, State.startCommand_cmd], by rw [hc, State.startCommand_busy]⟩
  · exact .inl (hostRead_busy s off w)
  · obtain ⟨hcmd, hc⟩ | ⟨-, hc⟩ | ⟨k, -, hc⟩ | ⟨i, -, hc⟩ | hc := hostWrite_cases s off w v <;> rw [hc]
    · obtain ⟨hoff, hw⟩ := word_zero_of_target_eq_cmd hm hcmd
      exact .inr ⟨hoff, hw, rfl, rfl⟩
    · exact .inl rfl
    · exact .inl rfl
    · exact .inl (hostIbufWrite_busy s w i v)
    · exact .inl rfl

/-- What a turn does to BUSY: nothing, a start by the CMD write, a completion by the engine, or a reset (R23). -/
theorem takeTurn_busy {base : Nat} {turn : Turn} {s t : State} (h : takeTurn base turn s = .next t) :
    t.busy = s.busy ∨
    ((turn = .access 0 .word (.write t.cmd) ∨ turn = .bus base .word (.write t.cmd)) ∧ t.busy = true) ∨
    (turn = .engine ∧ t.busy = false ∧ t.done = true) ∨ (turn = .reset ∧ t.busy = false) := by
  cases turn with
  | access off w op =>
    obtain hsame | ⟨rfl, rfl, rfl, hset⟩ := hostAccess_busy h
    · exact .inl hsame
    · exact .inr (.inl ⟨.inl rfl, hset⟩)
  | bus address w op =>
    obtain ⟨hle, hacc⟩ := busAccess_next h
    obtain hsame | ⟨hoff, rfl, rfl, hset⟩ := hostAccess_busy hacc
    · exact .inl hsame
    · obtain rfl : address = base := by omega
      exact .inr (.inl ⟨.inr rfl, hset⟩)
  | wait => cases h; exact .inl (hostWait_busy s)
  | engine =>
    obtain hsame | hdone := engineStep_busy h
    · exact .inl hsame
    · exact .inr (.inr (.inl ⟨rfl, hdone⟩))
  | reset => cases h; exact .inr (.inr (.inr ⟨rfl, rfl⟩))

/-- What a step does to BUSY (R23). -/
theorem step_busy {s t : State} (h : step s = .next t) :
    t.busy = s.busy ∨
    ((∃ rest, s.agenda = .access 0 .word (.write t.cmd) :: rest ∨
      s.agenda = .bus Config.codecBase .word (.write t.cmd) :: rest) ∧ t.busy = true) ∨
    ((s.agenda = [] ∨ ∃ rest, s.agenda = .engine :: rest) ∧ t.busy = false ∧ t.done = true) ∨
    ((∃ rest, s.agenda = .reset :: rest) ∧ t.busy = false) := by
  obtain ⟨ha, hengine⟩ | ⟨turn, rest, ha, hturn⟩ := step_cases h
  · obtain hsame | hdone := engineStep_busy hengine
    · exact .inl hsame
    · exact .inr (.inr (.inl ⟨.inl ha, hdone⟩))
  · obtain hsame | ⟨rfl | rfl, hset⟩ | ⟨rfl, hdone⟩ | ⟨rfl, hclear⟩ := takeTurn_busy hturn
    · exact .inl hsame
    · exact .inr (.inl ⟨⟨rest, .inl ha⟩, hset⟩)
    · exact .inr (.inl ⟨⟨rest, .inr ha⟩, hset⟩)
    · exact .inr (.inr (.inl ⟨.inr ⟨rest, ha⟩, hdone⟩))
    · exact .inr (.inr (.inr ⟨⟨rest, ha⟩, hclear⟩))

/-- Settles O9: of the four things a step can do to BUSY, only the start sets it, and only a completion or a reset clears it. -/
theorem busyChangesOnlyByStartCompletionOrReset : Obligations.BusyChangesOnlyByStartCompletionOrReset := by
  intro s t h
  obtain hsame | ⟨⟨rest, hstart⟩, hset⟩ | ⟨hturn, hclear, hdone⟩ | ⟨hreset, hclear⟩ := step_busy h
  · exact ⟨fun h0 h1 => by simp [hsame, h0] at h1, fun h1 h0 => by simp [hsame, h1] at h0⟩
  · exact ⟨fun _ _ => ⟨t.cmd, rest, rfl, hstart⟩, fun _ h0 => by simp [hset] at h0⟩
  · exact ⟨fun _ h1 => by simp [hclear] at h1, fun _ _ => .inl ⟨hdone, hturn⟩⟩
  · exact ⟨fun _ h1 => by simp [hclear] at h1, fun _ _ => .inr hreset⟩

/-! ### The address map (20_memory.md R51) -/

theorem target_field (k : Fin 16) : target (0x40 + 4 * k.val) = .field k := by
  have hk : (0x40 + 4 * k.val - 0x40) / 4 = k.val := by omega
  rw [target, if_neg (by omega), if_pos (by omega), hk, Fin.ofNat_val_eq_self]

theorem target_ibuf {off : Nat} (h : 0x10000 ≤ off) (h' : off < 0x20000) : target off = .ibuf (off - 0x10000) := by
  rw [target, if_neg (by omega), if_neg (by omega), if_neg (by omega), if_pos h']

theorem target_obuf {off : Nat} (h : 0x20000 ≤ off) (h' : off < 0x30000) : target off = .obuf (off - 0x20000) := by
  rw [target, if_neg (by omega), if_neg (by omega), if_neg (by omega), if_neg (by omega), if_pos h']

theorem target_reserved_registers {off : Nat} (h : 0x1C ≤ off) (h' : off < 0x40) : target off = .reserved := by
  obtain ⟨q, hq⟩ : ∃ q, off / 4 = q + 7 := ⟨off / 4 - 7, by omega⟩
  rw [target, if_pos h', hq]
  rfl

theorem target_reserved_below_buffers {off : Nat} (h : 0x80 ≤ off) (h' : off < 0x10000) : target off = .reserved := by
  rw [target, if_neg (by omega), if_neg (by omega), if_pos h']

theorem target_reserved_above_buffers {off : Nat} (h : 0x30000 ≤ off) : target off = .reserved := by
  rw [target, if_neg (by omega), if_neg (by omega), if_neg (by omega), if_neg (by omega), if_neg (by omega)]

/-- An offset of the OBUF window or a reserved one: the host's writes there are ignored (R54, R55). -/
abbrev ObufOrReserved (s : State) (off : Nat) : Prop := (0x20000 ≤ off ∧ off < 0x30000) ∨ ReservedOffset s off

/-- What stands at an offset of OBUF or a reserved one: OBUF, nothing, or an IBUF index at or above BUF_BYTES (R51, R54). -/
theorem target_of_obufOrReserved {s : State} {off : Nat} (h : ObufOrReserved s off) :
    (∃ i, target off = .obuf i) ∨ target off = .reserved ∨ ∃ i, target off = .ibuf i ∧ s.bufBytes ≤ i := by
  obtain ⟨hlo, hhi⟩ | ⟨hlo, hhi⟩ | ⟨hlo, hhi⟩ | ⟨hlo, hhi⟩ | ⟨hlo, hhi⟩ | ⟨hlo, -⟩ := h
  · exact .inl ⟨_, target_obuf hlo hhi⟩
  · exact .inr (.inl (target_reserved_registers hlo hhi))
  · exact .inr (.inl (target_reserved_below_buffers hlo hhi))
  · exact .inr (.inr ⟨_, target_ibuf (by omega) hhi, by omega⟩)
  · exact .inl ⟨_, target_obuf (by omega) hhi⟩
  · exact .inr (.inl (target_reserved_above_buffers hlo))

/-! ### Host writes outside the busy window (10_state.md R30, R33, 20_memory.md R54, R55) -/

/-- An aligned word has a meaning wherever it stands (R52). -/
theorem meaningful_word {off : Nat} (h : off % 4 = 0) : meaningful off .word = true := by simp [meaningful, h]

/-- A byte of OBUF and a reserved one have a meaning (R53, R54; log 11). -/
theorem meaningful_byte_of_obufOrReserved {s : State} {off : Nat} (h : ObufOrReserved s off) :
    meaningful off .byte = true := by
  obtain ⟨i, ht⟩ | ht | ⟨i, ht, -⟩ := target_of_obufOrReserved h <;> simp [meaningful, ht]

theorem ibufPoke_above {size i : Nat} (h : size ≤ i) (m : Memory) (b : Byte) : ibufPoke size m i b = m := if_pos h

/-- No lane of an IBUF write at or above BUF_BYTES is taken (R54). -/
theorem hostIbufWrite_above {s : State} {i : Nat} (h : s.bufBytes ≤ i) (w : Width) (v : Word) : hostIbufWrite s w i v = s := by
  have hpoke : ∀ j (m : Memory) (b : Byte), ibufPoke s.bufBytes m (i + j) b = m := fun j => ibufPoke_above (by omega)
  have hpoke0 : ∀ (m : Memory) b, ibufPoke s.bufBytes m i b = m := hpoke 0
  cases w <;> simp only [hostIbufWrite, hpoke, hpoke0]

/-- OBUF and the reserved offsets ignore a host write (R54, R55). -/
theorem hostWrite_obufOrReserved {s : State} {off : Nat} (h : ObufOrReserved s off)
    (w : Width) (v : Word) : hostWrite s off w v = s := by
  obtain ⟨i, ht⟩ | ht | ⟨i, ht, hi⟩ := target_of_obufOrReserved h <;> simp only [hostWrite, ht]
  exact hostIbufWrite_above hi w v

/-- STATUS, RESULT, CSUM, OLEN and BUFSZ ignore a host write (R55). -/
theorem hostWrite_readOnly {off : Nat} (h : off ∈ [0x4, 0x8, 0xC, 0x14, 0x18]) (s : State) (w : Width) (v : Word) :
    hostWrite s off w v = s := by
  simp only [List.mem_cons, List.not_mem_nil, or_false] at h
  obtain rfl | rfl | rfl | rfl | rfl := h <;> rfl

/-- A host write that has a meaning is taken outside the busy window (R52 to R55). -/
theorem hostAccess_write {s : State} {off : Nat} {w : Width} (hz : s.hazardOpen = false) (hoff : off < addressSpaceEnd)
    (hm : meaningful off w = true) (v : Word) : hostAccess off w (.write v) s = .next (hostWrite s off w v) := by
  rw [hostAccess, if_neg (Nat.not_le.2 hoff), if_neg (by simp [hm]), if_neg (by simp [hz])]

theorem step_write {s : State} {off : Nat} {w : Width} {v : Word} {rest : List Turn}
    (ha : s.agenda = .access off w (.write v) :: rest) (hz : s.hazardOpen = false) (hoff : off < 0x40000)
    (hm : meaningful off w = true) : step s = .next (hostWrite { s with agenda := rest } off w v) := by
  rw [step_cons ha]
  exact hostAccess_write (s := { s with agenda := rest }) hz hoff hm v

theorem step_write_obufOrReserved {s : State} {off : Nat} {w : Width} {v : Word} {rest : List Turn}
    (ha : s.agenda = .access off w (.write v) :: rest) (hz : s.hazardOpen = false) (hm : meaningful off w = true)
    (h : ObufOrReserved s off) : step s = .next { s with agenda := rest } := by
  have hoff : off < 0x40000 := by omega
  rw [step_write ha hz hoff hm, hostWrite_obufOrReserved (s := { s with agenda := rest }) h]

theorem step_write_readOnly {s : State} {off : Nat} {v : Word} {rest : List Turn}
    (ha : s.agenda = .access off .word (.write v) :: rest) (hz : s.hazardOpen = false)
    (h : off ∈ [0x4, 0x8, 0xC, 0x14, 0x18]) : step s = .next { s with agenda := rest } := by
  have hall : ∀ x ∈ [0x4, 0x8, 0xC, 0x14, 0x18], x < 0x40000 ∧ meaningful x .word = true := by decide
  obtain ⟨hoff, hm⟩ := hall off h
  rw [step_write ha hz hoff hm, hostWrite_readOnly h]

/-- Settles O20: each clause is the one host write of its turn, at what the address map has at its offset. -/
theorem registerWritesFollowTheAddressMap : Obligations.RegisterWritesFollowTheAddressMap := by
  refine ⟨fun s off v rest hz ha h => step_write_obufOrReserved ha hz (meaningful_byte_of_obufOrReserved h) h,
    fun s off v rest hz ha => ⟨?_, fun k => ?_, fun hmod h => ?_⟩⟩
  · rintro rfl
    exact step_write ha hz (by decide) rfl
  · rintro rfl
    refine ⟨({ s with agenda := rest } : State).setF k v, ?_, rfl, fun j => ?_⟩
    · rw [step_write ha hz (by omega) (meaningful_word (by omega)), hostWrite, target_field]
    · rw [State.freg_setF]
      exact if_congr eq_comm rfl rfl
  · obtain hro | hor := h
    · exact step_write_readOnly ha hz hro
    · exact step_write_obufOrReserved ha hz (meaningful_word hmod) hor

end Sys2Proof.Machine
end

section
/-! PROOFS. The engine's step of a command (20_memory.md R61, R62), and the host's accesses: which are refused (R56), what a read
returns at each offset of the address map (R51 to R54), the lanes of a buffer access (R53), and the CMD write (R58). -/

namespace Sys2Proof.Machine

/-! ### The engine's step (20_memory.md R61, 30_encoding.md R83) -/

/-- The engine runs the command CMD decodes to. -/
theorem engineStep_of_decode {s : State} {i : Instr} (hb : s.busy = true) (hs : s.stuckAt = none)
    (hd : decode s.cmd = .ok i) : engineStep s = exec i s := by
  simp [engineStep, hb, hs, hd]

theorem step_engine {s : State} {rest : List Turn} (ha : s.agenda = .engine :: rest) :
    step s = engineStep { s with agenda := rest } := step_cons ha

/-- Settles O4: an empty agenda and an engine turn both give the engine its step, which runs the decoded command or idles. -/
theorem stepRunsTheDecodedCommand : Obligations.StepRunsTheDecodedCommand := by
  refine ⟨fun s i hb hs hd => ⟨fun ha => ?_, fun rest ha => ?_⟩, fun s hb => ⟨fun ha => ?_, fun rest ha => ?_⟩,
    fun s => ⟨step_nil, fun rest => step_engine⟩⟩
  · rw [step_nil ha, engineStep_of_decode hb hs hd]
  · rw [step_engine ha, engineStep_of_decode (s := { s with agenda := rest }) hb hs hd]
  · rw [step_nil ha, engineStep_idle hb]
  · rw [step_engine ha, engineStep_idle (s := { s with agenda := rest }) hb]

/-! ### WAIT around a command (20_memory.md R62, 30_encoding.md R87; log 14) -/

/-- The turns to come are no command's output. -/
theorem CommandWrites.agenda {i : Instr} {s u : State} (h : CommandWrites i s u) : u.agenda = s.agenda := by
  cases h <;> simp [State.withOutput]

/-- The engine leaves the turns to come as they are (R50). -/
theorem engineStep_agenda {s t : State} (h : engineStep s = .next t) : t.agenda = s.agenda := by
  obtain ⟨-, rfl⟩ | ⟨-, -, ⟨i, -, hx⟩ | ⟨-, rfl⟩⟩ := engineStep_cases h
  · rfl
  · obtain ⟨u, hw, rfl⟩ | ⟨e, rfl⟩ | ⟨b, rfl⟩ := exec_cases hx
    · exact hw.agenda
    · rfl
    · rfl
  · rfl

/-- A poll that sees BUSY = 1 reads STATUS and puts the engine's turn and the WAIT back (R87). -/
theorem step_wait_busy {s : State} {rest : List Turn} (ha : s.agenda = .wait :: rest) (hb : s.busy = true) :
    step s = .next { s with agenda := .engine :: .wait :: rest, readData := s.statusWord } := by
  have hpoll : step s = .next (hostWait { s with agenda := rest }) := step_cons ha
  rw [hpoll, hostWait_eq]
  simp [hb, State.statusWord]

/-- A poll that sees BUSY = 0 ends the WAIT and closes the busy window (R62, 70_reset_and_hazards.md R262). -/
theorem step_wait_idle {s : State} {rest : List Turn} (ha : s.agenda = .wait :: rest) (hb : s.busy = false) :
    step s = .next { s with agenda := rest, readData := s.statusWord, window := false } := by
  have hpoll : step s = .next (hostWait { s with agenda := rest }) := step_cons ha
  rw [hpoll, hostWait_eq]
  simp [hb, State.statusWord]

/-- A run goes on from the next state of its first step. -/
theorem run_succ {M : Host.Core} {s t : M.State} (h : M.step s = .next t) (k : Nat) : M.run (k + 1) s = M.run k t := by
  rw [Host.Core.run, h]

/-- Settles O11: the poll that sees the command running, the engine's step, and the poll that sees it completed. -/
theorem waitReturnsAfterTheCommand : Obligations.WaitReturnsAfterTheCommand := by
  intro s t rest ha hb hengine hdone
  have hturn : t.agenda = .wait :: rest := engineStep_agenda hengine
  calc Host.Core.run core 3 s
    _ = Host.Core.run core 2 { s with agenda := .engine :: .wait :: rest, readData := s.statusWord } :=
      run_succ (M := core) (step_wait_busy ha hb) 2
    _ = Host.Core.run core 1 t := run_succ (M := core) ((step_engine rfl).trans hengine) 1
    _ = .next { t with agenda := rest, readData := t.statusWord, window := false } :=
      run_succ (M := core) (step_wait_idle hturn hdone) 0

/-! ### Accesses without a meaning (20_memory.md R56) and outside the address space (00_scope.md R5) -/

theorem step_access {s : State} {off : Nat} {w : Width} {op : AccessOp} {rest : List Turn}
    (ha : s.agenda = .access off w op :: rest) : step s = hostAccess off w op { s with agenda := rest } := step_cons ha

theorem step_bus {s : State} {address : Nat} {w : Width} {op : AccessOp} {rest : List Turn}
    (ha : s.agenda = .bus address w op :: rest) :
    step s = busAccess Config.codecBase address w op { s with agenda := rest } := step_cons ha

theorem hostAccess_outside {off : Nat} (h : addressSpaceEnd ≤ off) (w : Width) (op : AccessOp) (s : State) :
    hostAccess off w op s = .fault (.outsideAddressSpace off) := if_pos h

theorem hostAccess_refused {off : Nat} {w : Width} (hoff : off < addressSpaceEnd) (hm : meaningful off w = false)
    (op : AccessOp) (s : State) : hostAccess off w op s = .refused (.hostAccess off w) := by
  unfold hostAccess
  rw [if_neg (Nat.not_le.2 hoff), if_pos hm]

/-- An 8-bit access to a register has no meaning (R56): the seven words from 0x00 and the field registers from 0x40. -/
theorem not_meaningful_byte_of_register {off : Nat} (h : off < 0x1C ∨ (0x40 ≤ off ∧ off < 0x80)) :
    meaningful off .byte = false := by
  obtain hlow | ⟨hlo, hhi⟩ := h
  · interval_cases off <;> rfl
  · have ht : target off = .field (Fin.ofNat 16 ((off - 0x40) / 4)) := by rw [target, if_neg (by omega), if_pos hhi]
    simp [meaningful, ht]

/-- Settles O22: an address of the bus is taken at its offset from CODEC_BASE, and the access there is refused where it has no
meaning. -/
theorem accessesWithoutMeaningAreRefused : Obligations.AccessesWithoutMeaningAreRefused := by
  refine ⟨fun s address w op rest ha => ⟨fun hle => ?_, fun hlt => ?_⟩,
    fun s off w op rest ha _ => ⟨fun hoff h => ?_, fun hoff => ?_⟩⟩
  · rw [step_bus ha, busAccess, if_neg (Nat.not_lt.2 hle), step_access rfl]
  · rw [step_bus ha, busAccess, if_pos hlt]
  · rw [step_access ha]
    refine hostAccess_refused hoff ?_ op _
    obtain rfl | ⟨rfl, hreg⟩ | ⟨rfl, hmod⟩ := h
    · rfl
    · exact not_meaningful_byte_of_register hreg
    · simpa [meaningful] using hmod
  · rw [step_access ha, hostAccess_outside hoff]

/-! ### The CMD write (20_memory.md R58, 70_reset_and_hazards.md R262; log 9) -/

/-- Inside the busy window an access that R262 does not allow is a hazard violation. -/
theorem hostAccess_violation {s : State} {off : Nat} {w : Width} {op : AccessOp} (hz : s.hazardOpen = true)
    (hoff : off < addressSpaceEnd) (hm : meaningful off w = true) (hnot : allowedInWindow off w op = false) :
    hostAccess off w op s = .next (hazardViolation s off w op) := by
  unfold hostAccess
  rw [if_neg (Nat.not_le.2 hoff), if_neg (by simp [hm]), if_pos (by simp [hz, hnot])]

theorem target_zero : target 0 = .cmd := rfl

/-- Settles O16: after the poll the write starts its command; before the poll it sets FAULT as well. -/
theorem cmdWriteStartsACommand : Obligations.CmdWriteStartsACommand := by
  intro s v rest ha hb
  cases hw : s.window with
  | false =>
    rw [step_write ha (by simp [State.hazardOpen, hb, hw]) (by decide) rfl]
    simp [hostWrite, target_zero, State.startCommand]
  | true =>
    rw [step_access ha, hostAccess_violation (by simp [State.hazardOpen, hw]) (by decide) rfl rfl]
    simp [hazardViolation, target_zero, hb, unpolledCmdWrite, State.startCommand]

/-! ### Host reads outside the busy window (20_memory.md R52 to R54, R58) -/

/-- A host read that has a meaning is served outside the busy window (R52 to R54). -/
theorem hostAccess_read {s : State} {off : Nat} {w : Width} (hz : s.hazardOpen = false) (hoff : off < addressSpaceEnd)
    (hm : meaningful off w = true) : hostAccess off w .read s = .next (hostRead s off w) := by
  rw [hostAccess, if_neg (Nat.not_le.2 hoff), if_neg (by simp [hm]), if_neg (by simp [hz])]

theorem step_read {s : State} {off : Nat} {w : Width} {rest : List Turn} (ha : s.agenda = .access off w .read :: rest)
    (hz : s.hazardOpen = false) (hoff : off < 0x40000) (hm : meaningful off w = true) :
    step s = .next (hostRead { s with agenda := rest } off w) := by
  rw [step_access ha]
  exact hostAccess_read (s := { s with agenda := rest }) hz hoff hm

theorem window_of_hazardOpen {s : State} (hz : s.hazardOpen = false) : s.window = false := by
  simp only [State.hazardOpen, Bool.or_eq_false_iff] at hz
  exact hz.2

/-- Outside the busy window a host read changes the value returned and the draw counter alone: there is no window for a poll to
close (R58). -/
theorem hostRead_frame {s : State} (hw : s.window = false) (off : Nat) (w : Width) :
    hostRead s off w = { s with readData := (hostRead s off w).readData, draws := (hostRead s off w).draws } := by
  have hwindow : (hostRead s off w).window = s.window := by rw [hostRead_window, hw, Bool.false_and]
  exact (hostRead_eq s off w).trans (by rw [hwindow])

/-- Settles O18: the read is served, and leaves all but its value and the draw counter. -/
theorem hostReadsHaveNoSideEffects : Obligations.HostReadsHaveNoSideEffects := by
  intro s off w rest ha hz hoff hm
  exact ⟨_, step_read ha hz hoff hm, hostRead_frame (s := { s with agenda := rest }) (window_of_hazardOpen hz) off w⟩

/-! ### What a read of a register returns (10_state.md R22, R28, 20_memory.md R51, R52, R54) -/

/-- STATUS[3:2] is zero (R22). -/
theorem statusWord_bits_2_3 (s : State) : s.statusWord.extractLsb' 2 2 = 0 := by
  unfold State.statusWord
  generalize s.busy = b, s.done = d, s.err = e
  cases b <;> cases d <;> cases e <;> decide

/-- STATUS[31:8] is zero (R22). -/
theorem statusWord_bits_8_31 (s : State) : s.statusWord.extractLsb' 8 24 = 0 := by
  unfold State.statusWord
  generalize s.busy = b, s.done = d, s.err = e
  cases b <;> cases d <;> cases e <;> decide

theorem resultWord_eq (s : State) : s.resultWord = if s.result then 1 else 0 := by
  unfold State.resultWord
  cases s.result <;> rfl

/-- A poll of STATUS outside the busy window. -/
theorem hostRead_status {s : State} (hw : s.window = false) (w : Width) :
    hostRead s 0x4 w = { s with readData := s.statusWord } := by
  have hread : hostRead s 0x4 w = { s with readData := s.statusWord, window := s.window && s.busy } := rfl
  rw [hread, hw, Bool.false_and, ← hw]

theorem hostByte_above {size i : Nat} (h : size ≤ i) (m : Memory) (draws : Nat) : hostByte size m i draws = (0, draws) :=
  if_pos h

/-- A buffer read at or above BUF_BYTES returns zeros and draws nothing (R54). -/
theorem hostBufferRead_above {s : State} {i : Nat} (h : s.bufBytes ≤ i) (m : Memory) (w : Width) :
    hostBufferRead s m w i = { s with readData := 0 } := by
  have hzero : ∀ j draws, hostByte s.bufBytes m (i + j) draws = (0, draws) := fun j => hostByte_above (by omega) m
  have hzero0 : ∀ draws, hostByte s.bufBytes m i draws = (0, draws) := hzero 0
  cases w <;> simp only [hostBufferRead, hzero, hzero0] <;> rfl

/-- What stands at a reserved offset: nothing, or a buffer index at or above BUF_BYTES (R51, R54). -/
theorem target_of_reservedOffset {s : State} {off : Nat} (h : ReservedOffset s off) :
    target off = .reserved ∨ ∃ i, s.bufBytes ≤ i ∧ (target off = .ibuf i ∨ target off = .obuf i) := by
  obtain ⟨hlo, hhi⟩ | ⟨hlo, hhi⟩ | ⟨hlo, hhi⟩ | ⟨hlo, hhi⟩ | ⟨hlo, -⟩ := h
  · exact .inl (target_reserved_registers hlo hhi)
  · exact .inl (target_reserved_below_buffers hlo hhi)
  · exact .inr ⟨_, by omega, .inl (target_ibuf (by omega) hhi)⟩
  · exact .inr ⟨_, by omega, .inr (target_obuf (by omega) hhi)⟩
  · exact .inl (target_reserved_above_buffers hlo)

/-- A reserved offset reads as zero (R54). -/
theorem hostRead_reservedOffset {s : State} {off : Nat} (h : ReservedOffset s off) (w : Width) :
    hostRead s off w = { s with readData := 0 } := by
  obtain ht | ⟨i, hi, ht | ht⟩ := target_of_reservedOffset h <;> simp only [hostRead, ht]
  · exact hostBufferRead_above hi s.ibuf w
  · exact hostBufferRead_above hi s.obuf w

theorem step_read_reservedOffset {s : State} {off : Nat} {w : Width} {rest : List Turn}
    (ha : s.agenda = .access off w .read :: rest) (hz : s.hazardOpen = false) (hm : meaningful off w = true)
    (h : ReservedOffset s off) : step s = .next { s with readData := 0, agenda := rest } := by
  rw [step_read ha hz (by omega) hm, hostRead_reservedOffset (s := { s with agenda := rest }) h]

/-- Settles O19: each clause is the one host read of its turn, at what the address map has at its offset. -/
theorem registerReadsFollowTheAddressMap : Obligations.RegisterReadsFollowTheAddressMap := by
  intro s off rest hz
  refine ⟨fun ha => ⟨?cmd, ?status, ?result, ?csum, ?ilen, ?olen, ?bufsz, fun k => ?field, fun hmod h => ?reserved⟩,
    fun ha h => step_read_reservedOffset ha hz (meaningful_byte_of_obufOrReserved (.inr h)) h⟩
  case status =>
    rintro rfl
    refine ⟨_, step_read ha hz (by decide) rfl, ?_⟩
    rw [hostRead_status (s := { s with agenda := rest }) (window_of_hazardOpen hz)]
    exact ⟨rfl, State.statusWord_busy _, State.statusWord_done _, State.statusWord_err _, statusWord_bits_2_3 _,
      statusWord_bits_8_31 _⟩
  case result =>
    rintro rfl
    rw [step_read ha hz (by decide) rfl, ← resultWord_eq]
    rfl
  case field =>
    rintro rfl
    rw [step_read ha hz (by omega) (meaningful_word (by omega)), hostRead, target_field]
    rfl
  case reserved => exact step_read_reservedOffset ha hz (meaningful_word hmod) h
  all_goals
    rintro rfl
    exact step_read ha hz (by decide) rfl

/-! ### The lanes of a buffer access (20_memory.md R53, R54) -/

/-- A 32-bit write of the IBUF window changes the four bytes from `i` that lie below BUF_BYTES, each to its lane. -/
theorem read_hostIbufWrite_word (s : State) (i : Nat) (v : Word) (x : Nat) :
    (hostIbufWrite s .word i v).ibuf.read x =
      if i ≤ x ∧ x < i + 4 ∧ x < s.bufBytes then some (v.extractLsb' (8 * (x - i)) 8) else s.ibuf.read x := by
  simp only [hostIbufWrite, read_ibufPoke]
  by_cases hx : i ≤ x ∧ x < i + 4
  · obtain ⟨j, hj, rfl⟩ : ∃ j, j < 4 ∧ x = i + j := ⟨x - i, by omega, by omega⟩
    interval_cases j <;> simp
  · rw [if_neg (by omega), if_neg (by omega), if_neg (by omega), if_neg (by omega), if_neg (by omega)]

/-- An 8-bit write of the IBUF window changes byte `i` alone, below BUF_BYTES. -/
theorem read_hostIbufWrite_byte (s : State) (i : Nat) (v : Word) (x : Nat) :
    (hostIbufWrite s .byte i v).ibuf.read x = if x = i ∧ i < s.bufBytes then some (v.setWidth 8) else s.ibuf.read x := by
  have hlane : v.extractLsb' 0 8 = v.setWidth 8 := (BitVec.setWidth_eq_extractLsb' (by decide)).symm
  simp only [hostIbufWrite, read_ibufPoke, hlane, eq_comm (a := i)]

/-- A written byte below BUF_BYTES reads as itself and draws nothing (R53). -/
theorem hostByte_written {size i : Nat} {m : Memory} {b : Byte} (hi : i < size) (hb : m.read i = some b) (draws : Nat) :
    hostByte size m i draws = (b, draws) := by
  rw [hostByte, if_neg (Nat.not_le.2 hi), hb]

/-- Lane `j` of four bytes joined into a word. -/
theorem extractLsb'_lane (b0 b1 b2 b3 : Byte) {j : Nat} (hj : j < 4) :
    (b3 ++ b2 ++ b1 ++ b0).extractLsb' (8 * j) 8 = [b0, b1, b2, b3][j] := by
  interval_cases j
  · exact BitVec.extractLsb'_append_eq_right
  · exact (BitVec.extractLsb'_append_eq_of_le (by decide)).trans BitVec.extractLsb'_append_eq_right
  · exact (BitVec.extractLsb'_append_eq_of_le (by decide)).trans
      ((BitVec.extractLsb'_append_eq_of_le (by decide)).trans BitVec.extractLsb'_append_eq_right)
  · exact (BitVec.extractLsb'_append_eq_of_le (by decide)).trans
      ((BitVec.extractLsb'_append_eq_of_le (by decide)).trans BitVec.extractLsb'_append_eq_left)

/-- Lane `j` of a 32-bit buffer read is byte `i + j` as a host read sees it (R53). -/
theorem hostBufferRead_lane (s : State) (m : Memory) (i : Nat) {j : Nat} (hj : j < 4) :
    ∃ draws, (hostBufferRead s m .word i).readData.extractLsb' (8 * j) 8 = (hostByte s.bufBytes m (i + j) draws).1 := by
  unfold hostBufferRead
  rw [extractLsb'_lane _ _ _ _ hj]
  interval_cases j <;> exact ⟨_, rfl⟩

theorem hostBufferRead_written_word {s : State} {m : Memory} {i : Nat} {b0 b1 b2 b3 : Byte} (hi : i + 3 < s.bufBytes)
    (h0 : m.read i = some b0) (h1 : m.read (i + 1) = some b1) (h2 : m.read (i + 2) = some b2)
    (h3 : m.read (i + 3) = some b3) : hostBufferRead s m .word i = { s with readData := b3 ++ b2 ++ b1 ++ b0 } := by
  have hbyte0 := hostByte_written (size := s.bufBytes) (by omega) h0
  have hbyte1 := hostByte_written (size := s.bufBytes) (by omega) h1
  have hbyte2 := hostByte_written (size := s.bufBytes) (by omega) h2
  simp only [hostBufferRead, hbyte0, hbyte1, hbyte2, hostByte_written hi h3]

theorem hostBufferRead_written_byte {s : State} {m : Memory} {i : Nat} {b : Byte} (hi : i < s.bufBytes)
    (hb : m.read i = some b) : hostBufferRead s m .byte i = { s with readData := b.setWidth 32 } := by
  simp only [hostBufferRead, hostByte_written hi hb]

/-- A host read of a buffer window changes the value returned and the draw counter alone. -/
theorem hostBufferRead_eq (s : State) (m : Memory) (w : Width) (i : Nat) :
    hostBufferRead s m w i =
      { s with readData := (hostBufferRead s m w i).readData, draws := (hostBufferRead s m w i).draws } := by
  cases w <;> rfl

theorem target_ibuf_add {i : Nat} (h : i < 0x10000) : target (0x10000 + i) = .ibuf i := by
  rw [target_ibuf (by omega) (by omega), Nat.add_sub_cancel_left]

theorem target_obuf_add {i : Nat} (h : i < 0x10000) : target (0x20000 + i) = .obuf i := by
  rw [target_obuf (by omega) (by omega), Nat.add_sub_cancel_left]

/-- The two buffer windows of the address map, each by its first offset and the buffer it shows (R51). -/
abbrev BufferWindow (s : State) (base : Nat) (m : Memory) : Prop := (base, m) ∈ [(0x10000, s.ibuf), (0x20000, s.obuf)]

theorem bufferWindow_cases {s : State} {base : Nat} {m : Memory} (h : BufferWindow s base m) :
    (base = 0x10000 ∧ m = s.ibuf) ∨ (base = 0x20000 ∧ m = s.obuf) := by simpa using h

/-- A byte of a buffer window and an aligned word of it have a meaning (R53). -/
theorem meaningful_buffer {s : State} {base : Nat} {m : Memory} {i : Nat} {w : Width} (h : BufferWindow s base m)
    (hi : i < 0x10000) (hw : w = .byte ∨ w = .word ∧ i % 4 = 0) : meaningful (base + i) w = true := by
  obtain rfl | ⟨rfl, hmod⟩ := hw
  · obtain ⟨rfl, -⟩ | ⟨rfl, -⟩ := bufferWindow_cases h
    · rw [meaningful, target_ibuf_add hi]
    · rw [meaningful, target_obuf_add hi]
  · refine meaningful_word ?_
    obtain ⟨rfl, -⟩ | ⟨rfl, -⟩ := bufferWindow_cases h <;> omega

/-- A host read of a buffer window outside the busy window (R53). -/
theorem step_read_buffer {s : State} {base : Nat} {m : Memory} {i : Nat} {w : Width} {rest : List Turn}
    (h : BufferWindow s base m) (hi : i < 0x10000) (hw : w = .byte ∨ w = .word ∧ i % 4 = 0) (hz : s.hazardOpen = false)
    (ha : s.agenda = .access (base + i) w .read :: rest) :
    step s = .next (hostBufferRead { s with agenda := rest } m w i) := by
  have hm := meaningful_buffer h hi hw
  obtain ⟨rfl, rfl⟩ | ⟨rfl, rfl⟩ := bufferWindow_cases h
  · rw [step_read ha hz (by omega) hm, hostRead, target_ibuf_add hi]
  · rw [step_read ha hz (by omega) hm, hostRead, target_obuf_add hi]

/-- A host write of the IBUF window outside the busy window (R53). -/
theorem step_write_ibuf {s : State} {i : Nat} {w : Width} {v : Word} {rest : List Turn} (hi : i < 0x10000)
    (hw : w = .byte ∨ w = .word ∧ i % 4 = 0) (hz : s.hazardOpen = false)
    (ha : s.agenda = .access (0x10000 + i) w (.write v) :: rest) :
    step s = .next (hostIbufWrite { s with agenda := rest } w i v) := by
  rw [step_write ha hz (by omega) (meaningful_buffer (s := s) (.head _) hi hw), hostWrite, target_ibuf_add hi]

/-- A 32-bit read of four written bytes gives each in its lane (R53). -/
theorem step_read_written_word {s : State} {base : Nat} {m : Memory} {i : Nat} {rest : List Turn} {b0 b1 b2 b3 : Byte}
    (h : BufferWindow s base m) (hi : i < 0x10000) (hmod : i % 4 = 0) (hz : s.hazardOpen = false)
    (hfit : i + 3 < s.bufBytes) (ha : s.agenda = .access (base + i) .word .read :: rest) (h0 : m.read i = some b0)
    (h1 : m.read (i + 1) = some b1) (h2 : m.read (i + 2) = some b2) (h3 : m.read (i + 3) = some b3) :
    step s = .next { s with readData := b3 ++ b2 ++ b1 ++ b0, agenda := rest } := by
  rw [step_read_buffer h hi (.inr ⟨rfl, hmod⟩) hz ha,
    hostBufferRead_written_word (s := { s with agenda := rest }) hfit h0 h1 h2 h3]

/-- An 8-bit read of a written byte gives it (R53). -/
theorem step_read_written_byte {s : State} {base : Nat} {m : Memory} {i : Nat} {rest : List Turn} {b : Byte}
    (h : BufferWindow s base m) (hi : i < 0x10000) (hz : s.hazardOpen = false) (hfit : i < s.bufBytes)
    (ha : s.agenda = .access (base + i) .byte .read :: rest) (hb : m.read i = some b) :
    step s = .next { s with readData := b.setWidth 32, agenda := rest } := by
  rw [step_read_buffer h hi (.inl rfl) hz ha, hostBufferRead_written_byte (s := { s with agenda := rest }) hfit hb]

/-- Settles O21: a write is its lanes' pokes, and a read holds in each lane the byte a host read sees there. -/
theorem bufferAccessesUseTheLaneOrder : Obligations.BufferAccessesUseTheLaneOrder := by
  intro s i rest hz hi
  refine ⟨fun v hmod ha => ?writeWord, fun v ha => ?writeByte, fun b0 b1 b2 b3 hmod hfit => ?readWord,
    fun base m hmod hbuf ha => ?lanes, fun b hfit => ?readByte⟩
  case writeWord =>
    exact ⟨_, step_write_ibuf hi (.inr ⟨rfl, hmod⟩) hz ha, hostIbufWrite_eq .., read_hostIbufWrite_word _ i v⟩
  case writeByte =>
    exact ⟨_, step_write_ibuf hi (.inl rfl) hz ha, hostIbufWrite_eq .., read_hostIbufWrite_byte _ i v⟩
  case readWord =>
    exact ⟨step_read_written_word (by simp) hi hmod hz hfit, step_read_written_word (by simp) hi hmod hz hfit⟩
  case lanes =>
    refine ⟨_, step_read_buffer hbuf hi (.inr ⟨rfl, hmod⟩) hz ha, hostBufferRead_eq .., fun j hj => ?_⟩
    obtain ⟨draws, hlane⟩ := hostBufferRead_lane { s with agenda := rest } m i hj
    exact ⟨fun habove => hlane.trans (congrArg Prod.fst (hostByte_above habove m draws)),
      fun hbelow b hb => hlane.trans (congrArg Prod.fst (hostByte_written hbelow hb draws))⟩
  case readByte =>
    exact ⟨step_read_written_byte (by simp) hi hz hfit, step_read_written_byte (by simp) hi hz hfit⟩

end Sys2Proof.Machine
end

section
/-! PROOFS. The opcode map and the words outside it (30_encoding.md R80 to R84), and which commands may change which output (R89). -/

namespace Sys2Proof

/-! ### The opcode map (30_encoding.md R80 to R83) -/

/-- A word decodes to what the opcode map has at it (R83). -/
theorem decode_eq_ok_iff_lookup {w : Word} {i : Instr} : decode w = .ok i ↔ opcodeMap.lookup w = some i := by
  unfold decode
  cases opcodeMap.lookup w <;> simp

/-- The word of each row of the opcode map is in no row before it (R83). -/
theorem opcodeMap_lookup_row : ∀ p ∈ opcodeMap, opcodeMap.lookup p.1 = some p.2 := by decide

/-- Decoding is the opcode map read as a set of rows (R83). -/
theorem decode_eq_ok_iff_mem {w : Word} {i : Instr} : decode w = .ok i ↔ (w, i) ∈ opcodeMap := by
  rw [decode_eq_ok_iff_lookup]
  constructor
  · intro h
    obtain ⟨before, after, hmap, -⟩ := List.lookup_eq_some_iff.1 h
    simp [hmap]
  · exact opcodeMap_lookup_row (w, i)

/-- The opcode map holds each command at the word that FAM and OP build, and nowhere else (R80 to R83). -/
theorem mem_opcodeMap_iff {w : Word} {i : Instr} : (w, i) ∈ opcodeMap ↔ w = encode i := by
  have rows : ∀ p ∈ opcodeMap, p.1 = encode p.2 := by decide
  constructor
  · exact rows (w, i)
  · rintro rfl
    cases i <;> decide

/-- Settles O1: the opcode map stands between the two, the rows that decoding reads and the words that encoding builds. -/
theorem decodeGivesACommandExactlyAtItsWord : Obligations.DecodeGivesACommandExactlyAtItsWord :=
  fun _ _ => decode_eq_ok_iff_mem.trans mem_opcodeMap_iff

/-- A command decodes from its own word. -/
@[simp] theorem decode_encode (i : Instr) : decode (encode i) = .ok i := (decodeGivesACommandExactlyAtItsWord _ i).2 rfl

/-- Settles O3: each word is the one its command encodes to. -/
theorem sampleWordsDecodeToTheirCommands : Obligations.SampleWordsDecodeToTheirCommands :=
  ⟨decode_encode .inetph, decode_encode .ethChk, decode_encode .arpDec, decode_encode .ndpVal, decode_encode .icmpChk,
    decode_encode .ip4Dec, decode_encode .ip6Val, decode_encode .tcpEnc, decode_encode .udpDec, decode_encode .tlsVal,
    decode_encode .dnsEnc, decode_encode .xfer⟩

/-! ### The reserved words (30_encoding.md R84) -/

/-- A word below 0x100 has RSV = 0, so it is built from its FAM and its OP (R80). -/
theorem eq_commandWord_of_lt {w : Word} (h : w.toNat < 0x100) :
    w = commandWord (w.extractLsb' 4 4) (w.extractLsb' 0 4) := by
  have hrsv : w.extractLsb' 8 24 = 0#24 := by
    apply BitVec.eq_of_toNat_eq
    simp [Nat.shiftRight_eq_div_pow]
    omega
  rw [commandWord, ← hrsv, BitVec.extractLsb'_append_extractLsb'_eq_extractLsb' (by rfl),
    BitVec.extractLsb'_append_extractLsb'_eq_extractLsb' (by rfl)]
  simp

/-- R84 lists no word of the opcode map. -/
theorem not_reservedWord_encode (i : Instr) : ¬ Machine.ReservedWord (encode i).toNat := by cases i <;> decide

/-- R84 lists every word of RSV = 0 whose FAM and OP are not in the opcode map. -/
theorem mem_opcodeMap_of_not_reserved (fam op : BitVec 4) (h : ¬ Machine.ReservedWord (commandWord fam op).toNat) :
    ∃ i, (commandWord fam op, i) ∈ opcodeMap := by
  have words : ∀ fam op : BitVec 4, Machine.ReservedWord (commandWord fam op).toNat ∨
      commandWord fam op ∈ opcodeMap.map Prod.fst := by decide
  simpa using (words fam op).resolve_left h

/-- The words that name a command are those R84 does not list (R83, R84). -/
theorem exists_decode_iff (w : Word) : (∃ i, decode w = .ok i) ↔ ¬ Machine.ReservedWord w.toNat := by
  constructor
  · rintro ⟨i, hi⟩
    rw [(decodeGivesACommandExactlyAtItsWord w i).1 hi]
    exact not_reservedWord_encode i
  · intro h
    have hlt : w.toNat < 0x100 := by omega
    rw [eq_commandWord_of_lt hlt] at h ⊢
    exact (mem_opcodeMap_of_not_reserved _ _ h).imp fun _ => decode_eq_ok_iff_mem.2

end Sys2Proof

namespace Sys2Proof.Machine

/-- The engine completes with BADCMD where CMD decodes to no command (R83, R84). -/
theorem engineStep_of_decode_error {s : State} {d : CommandDefect} (hb : s.busy = true) (hs : s.stuckAt = none)
    (hd : decode s.cmd = .error d) : engineStep s = .next (s.complete .badCmd) := by
  simp [engineStep, hb, hs, hd]

/-- Settles O2: R84 lists the words without a command, and the engine's step of such a word is the completion alone. -/
theorem reservedWordsCompleteWithBadCmd : Obligations.ReservedWordsCompleteWithBadCmd := by
  refine ⟨exists_decode_iff, fun s hb hs hres => ?_⟩
  cases hd : decode s.cmd with
  | ok i => exact absurd hres ((exists_decode_iff s.cmd).1 ⟨i, hd⟩)
  | error d => exact ⟨_, engineStep_of_decode_error hb hs hd, leaves_complete s .badCmd⟩

/-! ### Which commands may change which output (30_encoding.md R89) -/

/-- The output of an ENC is in OBUF and OLEN, and in no field register (R91). -/
@[simp] theorem State.freg_withOutput (s : State) (out : Bytes) (k : Fin 16) : (s.withOutput out).freg k = s.freg k := rfl

section
variable {i : Instr} {s u : State}

/-- RESULT is written by VAL and CHK alone (10_state.md R28). -/
theorem CommandWrites.of_result_ne (h : CommandWrites i s u) (hne : u.result ≠ s.result) :
    i ∈ valCommands ++ chkCommands := by
  cases h with
  | val hi | chk hi => simp [hi]
  | sum | enc | dec | xfer => simp [State.withOutput] at hne

/-- CSUM is written by the checksum commands and CHK alone (10_state.md R29). -/
theorem CommandWrites.of_csum_ne (h : CommandWrites i s u) (hne : u.csum ≠ s.csum) : i ∈ sumCommands ++ chkCommands := by
  cases h with
  | sum hi | chk hi => simp [hi]
  | enc | dec | val | xfer => simp [State.withOutput] at hne

/-- OLEN and OBUF are written by ENC alone (10_state.md R31, R37). -/
theorem CommandWrites.of_output_ne (h : CommandWrites i s u)
    (hne : u.olen ≠ s.olen ∨ ∃ a, u.obuf.read a ≠ s.obuf.read a) : i ∈ encCommands := by
  cases h with
  | enc hi => exact hi
  | sum | dec | val | chk | xfer => simp at hne

/-- ILEN and IBUF are written by XFER alone (46_control.md R230). -/
theorem CommandWrites.of_input_ne (h : CommandWrites i s u)
    (hne : u.ilen ≠ s.ilen ∨ ∃ a, u.ibuf.read a ≠ s.ibuf.read a) : i = .xfer := by
  cases h with
  | xfer hi => exact hi
  | sum | enc | dec | val | chk => simp [State.withOutput] at hne

/-- The field registers are written by ENC and DEC alone (10_state.md R33). -/
theorem CommandWrites.of_freg_ne (h : CommandWrites i s u) (hne : ∃ k, u.freg k ≠ s.freg k) :
    i ∈ encCommands ++ decCommands := by
  cases h with
  | enc hi | dec hi => simp [hi]
  | sum | val | chk | xfer => simp [State.freg] at hne

end

/-- Settles O14: a command that completes with OK leaves what its family writes, and the two other ends change no output. -/
theorem eachOutputHasItsOwnCommands : Obligations.EachOutputHasItsOwnCommands := by
  intro i s t h
  obtain ⟨u, hw, rfl⟩ | ⟨e, rfl⟩ | ⟨b, rfl⟩ := exec_cases h
  · exact ⟨hw.of_result_ne, hw.of_csum_ne, hw.of_output_ne, hw.of_input_ne, hw.of_freg_ne⟩
  · simp
  · simp

end Sys2Proof.Machine
end

section
/-! PROOFS. The checksum engine: the table-driven CRC-32 and the bit-serial one (40_checksum_engine.md R100, R101), the Internet
checksum as the complement of the one's-complement sum (R102), and the commands CRC32, INET and INETPH (R105 to R107). -/

namespace Sys2Proof.Machine

/-! ### CRC-32: the table against the bit-serial loop (R100, R101) -/

/-- The polynomial, taken when the bit shifted out was 1 (R100). -/
def crcFeedback (bit : Bool) : Word := if bit then 0xEDB88320#32 else 0

theorem crcFeedback_xor (p q : Bool) : crcFeedback (p ^^ q) = crcFeedback p ^^^ crcFeedback q := by
  cases p <;> cases q <;> decide

theorem crcShift_eq_xor (c : Word) : crcShift c = (c >>> 1) ^^^ crcFeedback (c.getLsbD 0) := by
  unfold crcShift crcFeedback
  split <;> simp

/-- A turn of the loop is linear over XOR, as the shift and the feedback are. -/
theorem crcShift_xor (a b : Word) : crcShift (a ^^^ b) = crcShift a ^^^ crcShift b := by
  simp only [crcShift_eq_xor, BitVec.ushiftRight_xor_distrib, BitVec.getLsbD_xor, crcFeedback_xor]
  ac_rfl

theorem iterate_crcShift_xor (k : Nat) (a b : Word) : crcShift^[k] (a ^^^ b) = crcShift^[k] a ^^^ crcShift^[k] b := by
  induction k generalizing a b with
  | zero => rfl
  | succ k ih => simp only [Function.iterate_succ_apply, crcShift_xor, ih]

/-- While the low bits are 0, the loop only shifts. -/
theorem iterate_crcShift_of_low_zero {k : Nat} {c : Word} (h : ∀ i, i < k → c.getLsbD i = false) :
    crcShift^[k] c = c >>> k := by
  induction k generalizing c with
  | zero => simp
  | succ k ih =>
    have hshift : crcShift c = c >>> 1 := by rw [crcShift, h 0 (Nat.succ_pos k), if_neg Bool.false_ne_true]
    have hlow : ∀ i, i < k → (c >>> 1).getLsbD i = false := fun i hi => by
      rw [BitVec.getLsbD_ushiftRight]
      exact h (1 + i) (by omega)
    rw [Function.iterate_succ_apply, hshift, ih hlow, ← BitVec.shiftRight_add, Nat.add_comm]

/-- The running register without its low byte: the part that R101 shifts and does not look up. -/
def highBytes (r : Word) : Word := r ^^^ (r.setWidth 8).setWidth 32

/-- The register after the input byte is taken in: its low byte is the table index, its other bytes are the register's. -/
theorem xor_byte_eq (r : Word) (b : Byte) :
    r ^^^ b.setWidth 32 = (r.setWidth 8 ^^^ b).setWidth 32 ^^^ highBytes r := by
  have hcancel : (r.setWidth 8).setWidth 32 ^^^ (r.setWidth 8).setWidth 32 = 0#32 := BitVec.xor_self
  calc r ^^^ b.setWidth 32
    _ = r ^^^ b.setWidth 32 ^^^ ((r.setWidth 8).setWidth 32 ^^^ (r.setWidth 8).setWidth 32) := by
      rw [hcancel, BitVec.xor_zero]
    _ = (r.setWidth 8 ^^^ b).setWidth 32 ^^^ highBytes r := by
      rw [highBytes, BitVec.setWidth_xor]
      ac_rfl

theorem getLsbD_highBytes {r : Word} {i : Nat} (h : i < 8) : (highBytes r).getLsbD i = false := by
  simp [highBytes, h, show i < 32 by omega]

theorem highBytes_shift (r : Word) : highBytes r >>> 8 = r >>> 8 := by
  have hbyte : (r.setWidth 8).setWidth 32 >>> 8 = 0#32 := by
    apply BitVec.eq_of_toNat_eq
    simp [Nat.shiftRight_eq_div_pow]
    omega
  rw [highBytes, BitVec.ushiftRight_xor_distrib, hbyte, BitVec.xor_zero]

/-- The table's entry at the index of R101 is the loop's result on that index. -/
theorem crcTable_crcIndex (r : Word) (b : Byte) :
    crcTable[crcIndex r b] = crcShift^[8] ((r.setWidth 8 ^^^ b).setWidth 32) := by
  have hindex : BitVec.ofNat 32 (crcIndex r b).val = (r.setWidth 8 ^^^ b).setWidth 32 := BitVec.ofNat_toNat ..
  have hentry : crcTable[crcIndex r b] = crcEntry (crcIndex r b).val := Vector.getElem_ofFn ..
  rw [hentry, crcEntry, hindex]

/-- One byte: the table holds the loop's result on the index, and the loop only shifts the rest of the register. -/
theorem crcByte_crcTable (r : Word) (b : Byte) : crcByte crcTable r b = crcShift^[8] (r ^^^ b.setWidth 32) := by
  calc crcByte crcTable r b
    _ = crcShift^[8] ((r.setWidth 8 ^^^ b).setWidth 32) ^^^ (r >>> 8) := by rw [crcByte, crcTable_crcIndex]
    _ = crcShift^[8] ((r.setWidth 8 ^^^ b).setWidth 32) ^^^ crcShift^[8] (highBytes r) := by
      rw [iterate_crcShift_of_low_zero fun _ => getLsbD_highBytes, highBytes_shift]
    _ = crcShift^[8] (r ^^^ b.setWidth 32) := by rw [xor_byte_eq, iterate_crcShift_xor]

/-- Settles O23: the two fold the same function of register and byte. -/
theorem tableDrivenCrcEqualsBitSerialCrc : Obligations.TableDrivenCrcEqualsBitSerialCrc := by
  intro d
  have hbyte : crcByte crcTable = fun r b => crcShift^[8] (r ^^^ b.setWidth 32) :=
    funext fun r => funext (crcByte_crcTable r)
  rw [crc32, crcBitSerial, hbyte]

/-- The CRC-32 of no byte (R105). -/
theorem crc32_nil (rom : Vector Word 256) : crc32 rom [] = 0 := BitVec.xor_self

/-! ### The Internet checksum as a one's-complement sum (R102) -/

/-- What byte `i` of a sequence adds to the word sum: it is a high byte at an even place, a low byte at an odd one (R102). -/
def weighedByte (d : Bytes) (i : Nat) : Nat := (byteAt d i).toNat * if i % 2 = 0 then 256 else 1

/-- A word in front moves every byte by two places, so none changes its weight. -/
theorem weighedByte_cons_cons (a b : Byte) (t : Bytes) (i : Nat) : weighedByte (a :: b :: t) (i + 2) = weighedByte t i := by
  simp [weighedByte, byteAt]

/-- The word sum is the sum of its weighed bytes, by the two-byte recursion of R102. -/
theorem wordSum_eq_sum_weighedByte (d : Bytes) : wordSum d = ((List.range d.length).map (weighedByte d)).sum := by
  induction d using wordSum.induct with
  | case1 => rfl
  | case2 b => simp [wordSum, weighedByte, byteAt]
  | case3 a b t ih =>
    have ha : weighedByte (a :: b :: t) 0 = a.toNat * 256 := rfl
    have hb : weighedByte (a :: b :: t) 1 = b.toNat := Nat.mul_one _
    simp [wordSum, ih, List.range_succ_eq_map, Function.comp_def, weighedByte_cons_cons, ha, hb, Nat.add_assoc]

/-- The one's-complement 16-bit value of a sum: 0 for 0, else the representative modulo 65535 in 1 to 65535 (R102). -/
def onesComplement (sum : Nat) : Nat := if sum = 0 then 0 else (sum - 1) % 65535 + 1

theorem onesComplement_le (sum : Nat) : onesComplement sum ≤ 0xFFFF := by
  unfold onesComplement
  split <;> omega

theorem onesComplement_of_le {sum : Nat} (h : sum ≤ 0xFFFF) : onesComplement sum = sum := by
  unfold onesComplement
  split <;> omega

/-- It depends on the residue alone, once the sum is not 0. -/
theorem onesComplement_congr {a b : Nat} (ha : 0 < a) (hb : 0 < b) (h : a % 65535 = b % 65535) :
    onesComplement a = onesComplement b := by
  unfold onesComplement
  rw [if_neg (by omega), if_neg (by omega)]
  omega

/-- The fold loop ends within `sum` turns with the one's-complement value: a turn keeps the residue (`foldStep_mod`), lowers the
sum and never reaches 0. -/
theorem foldCarries_eq_onesComplement {fuel sum : Nat} (h : sum ≤ fuel) : foldCarries fuel sum = onesComplement sum := by
  induction fuel generalizing sum with
  | zero => rw [foldCarries, onesComplement_of_le (by omega)]
  | succ fuel ih =>
    rw [foldCarries]
    split
    · next hsmall => exact (onesComplement_of_le hsmall).symm
    · next hcarry =>
      rw [ih (by omega)]
      exact onesComplement_congr (by omega) (by omega) (foldStep_mod sum)

theorem inet_toNat (d : Bytes) : (inet d).toNat = 0xFFFF - onesComplement (wordSum d) := by
  have hle := onesComplement_le (wordSum d)
  rw [inet, foldCarries_eq_onesComplement (Nat.le_refl _), BitVec.toNat_not, BitVec.toNat_ofNat]
  omega

/-- Settles O24: the word sum by its weighed bytes, and the fold by its one's-complement value. -/
theorem inetIsTheOnesComplementSum : Obligations.InetIsTheOnesComplementSum :=
  fun d => ⟨wordSum_eq_sum_weighedByte d, inet_toNat d⟩

/-! ### The commands of family 0x0 (R105 to R107) -/

/-- The pseudocode of a checksum command: CSUM <- `f` of the input bytes (R105 to R107). -/
def sumInput (s : State) (f : Bytes → Word) : Cmd State :=
  checkIlen s >>= fun n => readIbuf s 0 n >>= fun d => pure (s.setCsum (f d))

section
variable {i : Instr} {s : State} {f : Bytes → Word}

theorem sumInput_faults (he : exec i s = finish s (sumInput s f)) (h : s.n ≤ s.bufBytes) : FaultsWithin i s 0 s.n := by
  intro k hk
  refine engineFaults_of he ?_
  rw [sumInput, checkIlen_ok h, cmd_ok_bind, readIbuf_first_zero hk, cmd_error_bind]

theorem sumInput_completes (he : exec i s = finish s (sumInput s f)) {d : Bytes} (h : InputIs s d) :
    Completes i s { csum := some (f d) } := by
  obtain ⟨hlen, hfit, hold⟩ := h
  refine completes_of he ?_ (leaves_csum s (f d))
  rw [sumInput, checkIlen_ok hfit, cmd_ok_bind, readIbuf_holds hold hlen.symm, cmd_ok_bind, cmd_pure]

/-- The three ends of a checksum command: BadArg, the stop at the first unwritten input byte, and its sum in CSUM. -/
theorem sumInput_ends (he : exec i s = finish s (sumInput s f)) :
    (s.bufBytes < s.n → Fails i s .badArg) ∧ (s.n ≤ s.bufBytes → FaultsWithin i s 0 s.n) ∧
    ∀ d, InputIs s d → Completes i s { csum := some (f d) } :=
  ⟨fails_of_ilen he, sumInput_faults he, fun _ => sumInput_completes he⟩

end

/-- Settles O26: CRC32 is the checksum command of `crc32` over the state's CRCROM. -/
theorem crc32GivesTheCrcOfTheInput : Obligations.Crc32GivesTheCrcOfTheInput :=
  ⟨decode_encode .crc32, crc32_nil, fun s => sumInput_ends (f := crc32 s.crcrom) rfl⟩

/-- Settles O27: INET is the checksum command of `inet`, zero-extended. -/
theorem inetGivesTheChecksumOfTheInput : Obligations.InetGivesTheChecksumOfTheInput :=
  ⟨decode_encode .inet, rfl, fun _ => sumInput_ends (f := fun d => (inet d).setWidth 32) rfl⟩

/-- The bytes of a value above the encoded ones do not count (00_scope.md R8). -/
theorem be_mod {n m : Nat} (h : n ≤ m) (v : Nat) : be n (v % 256 ^ m) = be n v := by
  induction n with
  | zero => rfl
  | succ n ih =>
    obtain ⟨k, rfl⟩ := Nat.exists_eq_add_of_le h
    have hbyte : v % 256 ^ (n + 1 + k) / 256 ^ n % 256 = v / 256 ^ n % 256 := by
      rw [Nat.add_assoc, Nat.pow_add, Nat.mod_mul_right_div_self, Nat.add_comm, Nat.pow_succ, Nat.mod_mul_left_mod]
    have hhead : BitVec.ofNat 8 (v % 256 ^ (n + 1 + k) / 256 ^ n) = BitVec.ofNat 8 (v / 256 ^ n) :=
      BitVec.eq_of_toNat_eq (by simpa using hbyte)
    rw [be, be, hhead, ih (by omega)]

/-- Encoding a field truncated to `n` bytes is copying its `n` low bytes (10_state.md R34). -/
theorem be_field (s : State) (n : Nat) (k : Fin 16) : be n (s.field (8 * n) k) = s.beF n k := by
  have hpow : 2 ^ (8 * n) = 256 ^ n := Nat.pow_mul 2 8 n
  rw [State.field, hpow, be_mod (Nat.le_refl n), State.beF]

/-- The pseudo-header of the field registers F0 to F3 (R103, R107). -/
theorem pseudo_fields (s : State) : pseudo (s.freg 0) (s.freg 1) (s.field 8 2) (s.field 16 3) =
    s.beF 4 0 ++ s.beF 4 1 ++ [0x00] ++ s.beF 1 2 ++ s.beF 2 3 := by
  have hproto : be 1 (s.field 8 2) = s.beF 1 2 := be_field s 1 2
  have hlength : be 2 (s.field 16 3) = s.beF 2 3 := be_field s 2 3
  rw [pseudo, hproto, hlength]
  rfl

/-- INETPH is the checksum command of `inet` behind the pseudo-header of F0 to F3 (R107). -/
theorem exec_inetph (s : State) : exec .inetph s = finish s (sumInput s fun d =>
    (inet (s.beF 4 0 ++ s.beF 4 1 ++ [0x00] ++ s.beF 1 2 ++ s.beF 2 3 ++ d)).setWidth 32) := by
  rw [← pseudo_fields]
  rfl

/-- Settles O28: the pseudo-header spelled out in the bytes of F0 to F3. -/
theorem inetphGivesTheChecksumWithPseudoHeader : Obligations.InetphGivesTheChecksumWithPseudoHeader :=
  ⟨decode_encode .inetph, fun s => sumInput_ends (exec_inetph s)⟩

end Sys2Proof.Machine
end

section
/-! PROOFS. Header fields as a list of registers and widths, ETH.DEC and ETH.CHK (41_ethernet.md R124, R125). -/

namespace Sys2Proof.Machine

/-! ### Commands with a least input length (30_encoding.md R90) -/

/-- The pseudocode a DEC or CHK begins with: `check_ilen()`, TooShort below `m` input bytes, and then `k`. -/
def withMinInput (s : State) (m : Nat) (k : Nat → Cmd State) : Cmd State :=
  checkIlen s >>= fun n => ensure (m ≤ n) .tooShort >>= fun _ => k n

section
variable {i : Instr} {s : State} {m : Nat} {k : Nat → Cmd State}

theorem withMinInput_fails_of_ilen (he : exec i s = finish s (withMinInput s m k)) (h : s.bufBytes < s.n) :
    Fails i s .badArg := fails_of_ilen he h

theorem withMinInput_fails_of_short (he : exec i s = finish s (withMinInput s m k)) (h : s.n ≤ s.bufBytes)
    (hshort : s.n < m) : Fails i s .tooShort := by
  refine fails_of_raise (e := .tooShort) he ?_
  rw [withMinInput, checkIlen_ok h, cmd_ok_bind, ensure_neg (Nat.not_le.2 hshort), cmd_error_bind]

theorem withMinInput_eq (h : s.n ≤ s.bufBytes) (hm : m ≤ s.n) : withMinInput s m k = k s.n := by
  rw [withMinInput, checkIlen_ok h, cmd_ok_bind, ensure_pos hm, cmd_ok_bind]

end

/-! ### Header fields (10_state.md R34, R41) -/

/-- The fixed fields of a header, in the order of their bytes: each register and its number of bytes. -/
abbrev Layout := List (Fin 16 × Nat)

/-- The header bytes an ENC copies from the registers. -/
def fieldBytes (s : State) (fs : Layout) : Bytes := fs.flatMap fun p => s.beF p.2 p.1

/-- The register writes of a DEC whose header begins at byte `a` of `b`. -/
def fieldWords (b : Bytes) (a : Nat) (fs : Layout) : List (Fin 16 × Word) :=
  match fs with
  | [] => []
  | (k, n) :: rest => (k, wordAt b a (a + n)) :: fieldWords b (a + n) rest

/-- The Ethernet header's fields (41_ethernet.md R121, R124). -/
def ethHeaderFields : Layout := [(0, 2), (1, 4), (2, 2), (3, 4), (5, 2)]

/-- The Ethernet trailer's field (R121, R124). -/
def ethTrailerFields : Layout := [(6, 4)]

/-! ### ETH.DEC (41_ethernet.md R124) -/

/-- The register writes of ETH.DEC: header, trailer, and the payload's slice. -/
def ethDecRegs (h t : Bytes) (n : Nat) : List (Fin 16 × Word) :=
  fieldWords h 0 ethHeaderFields ++ fieldWords t 0 ethTrailerFields ++ dataSlice 14 (n - 18)

theorem exec_ethDec (s : State) : exec .ethDec s = finish s (withMinInput s 64 fun n =>
    readIbuf s 0 14 >>= fun h => readIbuf s (n - 4) 4 >>= fun t => pure (s.setFs (ethDecRegs h t n))) := rfl

section
variable {s : State} (hfit : s.n ≤ s.bufBytes) (hmin : 64 ≤ s.n)
include hfit hmin

theorem ethDec_faults_header : FaultsWithin .ethDec s 0 14 := by
  intro k hk
  refine engineFaults_of (exec_ethDec s) ?_
  rw [withMinInput_eq hfit hmin, readIbuf_first_zero hk, cmd_error_bind]

theorem ethDec_faults_trailer {h : Bytes} (hlen : h.length = 14) (hold : IbufHolds s 0 h) :
    FaultsWithin .ethDec s (s.n - 4) s.n := by
  intro k hk
  have hread := readIbuf_first hk
  rw [show s.n - (s.n - 4) = 4 by omega] at hread
  refine engineFaults_of (exec_ethDec s) ?_
  rw [withMinInput_eq hfit hmin, readIbuf_holds hold hlen, cmd_ok_bind, hread, cmd_error_bind]

theorem ethDec_completes {h t : Bytes} (hlen : h.length = 14) (hold : IbufHolds s 0 h) (tlen : t.length = 4)
    (thold : IbufHolds s (s.n - 4) t) : Completes .ethDec s { regs := ethDecRegs h t s.n } := by
  refine completes_of (exec_ethDec s) ?_ (leaves_regs s _ (by
    simp [ethDecRegs, fieldWords, ethHeaderFields, ethTrailerFields, dataSlice]))
  rw [withMinInput_eq hfit hmin, readIbuf_holds hold hlen, cmd_ok_bind, readIbuf_holds thold tlen, cmd_ok_bind, cmd_pure]

end

/-- Settles O30: each end of ETH.DEC by its own lemma. -/
theorem ethDecGivesTheFields : Obligations.EthDecGivesTheFields :=
  ⟨decode_encode .ethDec, fun s =>
    ⟨withMinInput_fails_of_ilen (exec_ethDec s), withMinInput_fails_of_short (exec_ethDec s), ethDec_faults_header,
      fun _ hfit hmin hlen hold => ⟨ethDec_faults_trailer hfit hmin hlen hold,
        fun _ => ethDec_completes hfit hmin hlen hold⟩⟩⟩

/-! ### ETH.CHK (41_ethernet.md R125) -/

/-- What ETH.CHK compares on the frame `w`: the CRC of all but its last 4 bytes, and their value. -/
def ethChkState (s : State) (w : Bytes) (n : Nat) : State :=
  let c := crc32 s.crcrom (seg w 0 (n - 4))
  (s.setCsum c).setResult (c.toNat == beVal (seg w (n - 4) n))

theorem exec_ethChk (s : State) : exec .ethChk s = finish s (withMinInput s 64 fun n =>
    readIbuf s 0 n >>= fun w => pure (ethChkState s w n)) := rfl

theorem ethChk_faults {s : State} (hfit : s.n ≤ s.bufBytes) (hmin : 64 ≤ s.n) : FaultsWithin .ethChk s 0 s.n := by
  intro k hk
  refine engineFaults_of (exec_ethChk s) ?_
  rw [withMinInput_eq hfit hmin, readIbuf_first_zero hk, cmd_error_bind]

/-- The frame's two parts are the ones ETH.CHK compares. -/
theorem ethChkState_append (s : State) {body trailer : Bytes} (ht : trailer.length = 4) :
    ethChkState s (body ++ trailer) (body ++ trailer).length =
      (s.setCsum (crc32 s.crcrom body)).setResult (decide ((crc32 s.crcrom body).toNat = beVal trailer)) := by
  have hcut : (body ++ trailer).length - 4 = body.length := by simp [ht]
  have hbody : seg (body ++ trailer) 0 body.length = body := by simp [seg]
  have htrailer : seg (body ++ trailer) body.length (body ++ trailer).length = trailer := by
    rw [seg, List.take_length, List.drop_left]
  simp only [ethChkState, hcut, hbody, htrailer]
  rfl

theorem ethChk_completes {s : State} {body trailer : Bytes} (ht : trailer.length = 4) (hmin : 64 ≤ s.n)
    (h : InputIs s (body ++ trailer)) : Completes .ethChk s {
      csum := some (crc32 s.crcrom body), result := some (decide ((crc32 s.crcrom body).toNat = beVal trailer)) } := by
  obtain ⟨hlen, hfit, hold⟩ := h
  refine completes_of (exec_ethChk s) ?_ (leaves_csum_result s _ _)
  rw [withMinInput_eq hfit hmin, readIbuf_holds hold hlen.symm, cmd_ok_bind, cmd_pure, hlen, ethChkState_append s ht]

/-- Settles O31: each end of ETH.CHK by its own lemma. -/
theorem ethChkComparesTheTrailer : Obligations.EthChkComparesTheTrailer :=
  ⟨decode_encode .ethChk, fun s =>
    ⟨withMinInput_fails_of_ilen (exec_ethChk s), withMinInput_fails_of_short (exec_ethChk s), ethChk_faults,
      fun _ _ => ethChk_completes⟩⟩

end Sys2Proof.Machine
end

section
/-! PROOFS. Whole exchanges: what each ENC made, what XFER brings of it to the input, and that it passes its CHK
(46_control.md R230, 95_test_vectors.md P2). -/

namespace Sys2Proof.Machine

/-! ### An ENC that completed with OK -/

/-- `t` is the state in which the ENC command `i`, run in `s`, has completed with OK. -/
structure EncodesOk (i : Instr) (s t : State) : Prop where
  legal : Config.legalBufBytes s.bufBytes
  running : s.busy = true
  next : exec i s = .next t
  idle : t.busy = false
  ok : t.err = .ok

/-- `t` is `s` after the output `out`, which fits OBUF and OLEN, and the register writes `ws` (30_encoding.md R91). -/
structure Encoded (s t : State) (out : Bytes) (ws : List (Fin 16 × Word)) : Prop where
  fits : out.length ≤ s.bufBytes
  olen : t.olen.toNat = out.length
  leaves : Leaves .ok { out := some out, regs := ws } s t

/-- A length inside a legal buffer fits 16 bits (00_scope.md R1). -/
theorem toNat_ofNat_of_legal {buf n : Nat} (hbuf : Config.legalBufBytes buf) (h : n ≤ buf) :
    (BitVec.ofNat 16 n).toNat = n := by
  have hmax : buf ≤ 65535 := hbuf.2
  rw [BitVec.toNat_ofNat]
  omega

section
variable {i : Instr} {s t : State}

/-- Of the three ends of a command, only the completion with OK leaves BUSY = 0 and ERR = OK. -/
theorem EncodesOk.answers (h : EncodesOk i s t) {r : Cmd State} (he : exec i s = finish s r) :
    ∃ u, r = .ok u ∧ t = u.complete .ok := by
  obtain ⟨u, hu, ht⟩ | ⟨e, -, rfl⟩ | ⟨b, -, rfl⟩ := finish_cases (he.symm.trans h.next)
  · exact ⟨u, hu, ht⟩
  · exact absurd h.ok (errorCode_ne_ok e)
  · exact absurd h.running (by simpa using h.idle)

/-- What an ENC's `emit` and the register writes after it leave, with the output and the writes named anew. -/
theorem encoded_of_emit {u : State} {out out' : Bytes} {ws ws' : List (Fin 16 × Word)}
    (hbuf : Config.legalBufBytes s.bufBytes) (hu : (emit s out' >>= fun t => pure (t.setFs ws')) = .ok u)
    (hout : out' = out) (hws : ws' = ws) (hd : (ws.map Prod.fst).Nodup) : Encoded s (u.complete .ok) out ws := by
  subst hout hws
  obtain ⟨v, hv, hset⟩ := cmd_bind_ok hu
  obtain ⟨fits, rfl⟩ := emit_inv hv
  cases hset
  exact ⟨fits, by simpa using toNat_ofNat_of_legal hbuf fits, leaves_out s _ _ hd⟩

theorem Encoded.freg {out : Bytes} {ws : List (Fin 16 × Word)} (h : Encoded s t out ws) (k : Fin 16) :
    t.freg k = (ws.lookup k).getD (s.freg k) := h.leaves.freg k

/-- What MemRead answers, IBUF holds. -/
theorem readIbuf_inv {a n : Nat} {d : Bytes} (h : readIbuf s a n = .ok d) : d.length = n ∧ IbufHolds s a d := by
  obtain ⟨hlen, hread⟩ := memRead_inv h
  exact ⟨hlen, fun i hi => hread i (hlen ▸ hi)⟩

/-- Two runs of held bytes, one behind the other. -/
theorem IbufHolds_append {a : Nat} {d e : Bytes} (hd : IbufHolds s a d) (he : IbufHolds s (a + d.length) e) :
    IbufHolds s a (d ++ e) := by
  intro i hi
  rw [List.length_append] at hi
  by_cases h : i < d.length
  · rw [hd i h, List.getElem?_append_left h]
  · have := he (i - d.length) (by omega)
    rwa [show a + d.length + (i - d.length) = a + i by omega, ← List.getElem?_append_right (by omega)] at this

/-- What a command that reads its whole input has read (R90). -/
theorem input_inv {n : Nat} {d : Bytes} (hn : checkIlen s = .ok n) (hd : readIbuf s 0 n = .ok d) :
    n = d.length ∧ InputIs s d := by
  obtain ⟨rfl, hfit⟩ := checkIlen_inv hn
  obtain ⟨hlen, hold⟩ := readIbuf_inv hd
  exact ⟨hlen.symm, hlen.symm, hfit, hold⟩

/-- How IP4.ENC and TCP.ENC begin: the options length, the packet's length, and the input read as options and data (R92). -/
def readOptionsAndData (s : State) (k : Nat → Bytes → Bytes → Cmd State) : Cmd State :=
  checkIlen s >>= fun n => checkOpt (s.freg 10).toNat n >>= fun _ => ensure (20 + n ≤ s.bufBytes) .badArg >>= fun _ =>
    readIbuf s 0 (s.freg 10).toNat >>= fun opts =>
      readIbuf s (s.freg 10).toNat (n - (s.freg 10).toNat) >>= fun data => k n opts data

theorem readOptionsAndData_inv {k : Nat → Bytes → Bytes → Cmd State} {u : State} (h : readOptionsAndData s k = .ok u) :
    ∃ opts data : Bytes, opts.length = (s.freg 10).toNat ∧ opts.length ≤ 40 ∧ opts.length % 4 = 0 ∧
      InputIs s (opts ++ data) ∧ k (opts ++ data).length opts data = .ok u := by
  obtain ⟨n, hn, h⟩ := cmd_bind_ok h
  obtain ⟨_, hopt, h⟩ := cmd_bind_ok h
  obtain ⟨_, -, h⟩ := cmd_bind_ok h
  obtain ⟨opts, hopts, h⟩ := cmd_bind_ok h
  obtain ⟨data, hdata, h⟩ := cmd_bind_ok h
  obtain ⟨rfl, hfit⟩ := checkIlen_inv hn
  obtain ⟨hle, hmod, hin⟩ := ensure_ok hopt
  obtain ⟨olen, ohold⟩ := readIbuf_inv hopts
  obtain ⟨dlen, dhold⟩ := readIbuf_inv hdata
  rw [← olen] at hle hmod hin dlen dhold
  have hlen : s.ilen.toNat = (opts ++ data).length := by rw [List.length_append]; omega
  exact ⟨opts, data, olen, hle, hmod, ⟨hlen, hfit, IbufHolds_append ohold (by rwa [Nat.zero_add])⟩, hlen ▸ h⟩

end

/-! ### A checksum in its place (30_encoding.md R93) -/

/-- The checksum `f` of a packet with zeros in the checksum's place, between `a` and `z`. -/
def checksumOf (f : Bytes → Half) (a z : Bytes) : Half := f (a ++ zeros 2 ++ z)

/-- The packet that carries its own checksum between `a` and `z`. -/
def withChecksum (f : Bytes → Half) (a z : Bytes) : Bytes := a ++ be 2 (checksumOf f a z).toNat ++ z

@[simp] theorem withChecksum_length (f : Bytes → Half) (a z : Bytes) :
    (withChecksum f a z).length = a.length + 2 + z.length := by simp [withChecksum, Nat.add_assoc]

/-- An ENC puts the checksum of `p` in place of the two zeros at byte `i` (43_icmp_ipv4_ipv6.md R161, R168, 44_tcp_udp.md R192,
R197). -/
theorem patch_eq_withChecksum (f : Bytes → Half) {p a z : Bytes} {i j k : Nat} (hp : p = a ++ zeros 2 ++ z)
    (hi : a.length = i) (hj : a.length + 2 = j) (hk : a.length + 2 + z.length = k) :
    seg p 0 i ++ be 2 (f p).toNat ++ seg p j k = withChecksum f a z := by
  subst hp
  exact seg_patch _ hi (by simpa using hj) (by simpa [Nat.add_assoc] using hk)

/-- A checksum is read back as it was written (00_scope.md R8). -/
theorem beVal_be_toNat {w : Nat} (n : Nat) (c : BitVec w) (h : 2 ^ w ≤ 256 ^ n) : beVal (be n c.toNat) = c.toNat := by
  rw [beVal_be, Nat.mod_eq_of_lt (c.isLt.trans_le h)]

/-- The end of a CHK command of an Internet checksum: `n` bytes, the checksum at byte `pos` (R93). -/
def checkBytes (s : State) (n : Nat) (f : Bytes → Half) (pos : Nat) : Cmd State :=
  readIbuf s 0 n >>= fun p => pure (s.setCheck (csumCheck f p pos))

theorem checkBytes_append {s : State} {n pos : Nat} {f : Bytes → Half} {a stored z : Bytes} (hs : stored.length = 2)
    (hpos : a.length = pos) (hlen : (a ++ stored ++ z).length = n) (hold : IbufHolds s 0 (a ++ stored ++ z)) :
    checkBytes s n f pos = .ok ((s.setCsum ((checksumOf f a z).setWidth 32)).setResult
      (decide ((checksumOf f a z).toNat = beVal stored))) := by
  subst hpos
  rw [checkBytes, readIbuf_holds hold hlen, cmd_ok_bind, csumCheck_append f a stored z hs]
  rfl

/-- The CHK command `i` on state `s` finds the checksum it computes. -/
def Passes (i : Instr) (s : State) : Prop := ∃ c, Completes i s { csum := some c, result := some true }

theorem passes_of_checkBytes {i : Instr} {s : State} {r : Cmd State} {n pos : Nat} {f : Bytes → Half} {a z : Bytes}
    (he : exec i s = finish s r) (hr : r = checkBytes s n f pos) (hpos : a.length = pos)
    (hlen : (withChecksum f a z).length = n) (hold : IbufHolds s 0 (withChecksum f a z)) : Passes i s := by
  refine ⟨_, completes_of he ?_ (leaves_csum_result s ((checksumOf f a z).setWidth 32) true)⟩
  rw [hr, checkBytes_append (be_length _ _) hpos hlen hold, beVal_be_toNat 2 _ (by decide), decide_eq_true rfl]

/-! ### What each ENC made -/

section
variable {s t : State}

/-- ETH.ENC: the frame's body and the CRC-32 of it, which F6 holds too (41_ethernet.md R123). -/
theorem ethEnc_encoded (h : EncodesOk .ethEnc s t) : ∃ p, Encoded s t
    (ethHeader s ++ ethPad p ++ be 4 (crc32 s.crcrom (ethHeader s ++ ethPad p)).toNat)
    [(5, (etherType (s.freg 4)).setWidth 32), (6, crc32 s.crcrom (ethHeader s ++ ethPad p))] := by
  obtain ⟨u, hu, rfl⟩ := h.answers (exec_ethEnc s)
  obtain ⟨n, -, hu⟩ := cmd_bind_ok hu
  obtain ⟨p, -, hu⟩ := cmd_bind_ok hu
  exact ⟨p, encoded_of_emit h.legal hu rfl rfl (by simp)⟩

/-- The fields of an ARP packet, in the order of ARP.ENC's and ARP.DEC's bytes (42_arp_ndp.md R141, R142). -/
def arpFields : Layout :=
  [(0, 2), (1, 2), (2, 1), (3, 1), (4, 2), (5, 2), (6, 4), (7, 4), (8, 2), (9, 4), (10, 4)]

/-- The fields of an NDP header (42_arp_ndp.md R145, R146). -/
def ndpFields : Layout := [(0, 1), (1, 1), (2, 2), (3, 4), (4, 4), (5, 4), (6, 4), (7, 4)]

/-- The fields of an ICMP header (43_icmp_ipv4_ipv6.md R161, R162). -/
def icmpFields : Layout := [(0, 1), (1, 1), (2, 2), (3, 2), (4, 2)]

/-- ARP.ENC (42_arp_ndp.md R141). -/
theorem arpEnc_encoded (h : EncodesOk .arpEnc s t) : Encoded s t (fieldBytes s arpFields) [] := by
  obtain ⟨u, hu, rfl⟩ := h.answers rfl
  exact encoded_of_emit (ws' := []) h.legal ((bind_pure _).trans hu) (by simp [fieldBytes, arpFields]) rfl .nil

/-- NDP.ENC (42_arp_ndp.md R145). -/
theorem ndpEnc_encoded (h : EncodesOk .ndpEnc s t) :
    ∃ d, InputIs s d ∧ Encoded s t (fieldBytes s ndpFields ++ d) (dataSlice 0 d.length) := by
  obtain ⟨u, hu, rfl⟩ := h.answers rfl
  obtain ⟨n, hn, hu⟩ := cmd_bind_ok hu
  obtain ⟨d, hd, hu⟩ := cmd_bind_ok hu
  obtain ⟨rfl, hin⟩ := input_inv hn hd
  exact ⟨d, hin, encoded_of_emit h.legal hu (by simp [fieldBytes, ndpFields]) rfl (by simp [dataSlice])⟩

/-- The bytes of an ICMP packet before its checksum (43_icmp_ipv4_ipv6.md R161). -/
def icmpHead (s : State) : Bytes := s.beF 1 0 ++ s.beF 1 1

/-- The bytes of an ICMP packet behind its checksum, with data `d` (R161). -/
def icmpTail (s : State) (d : Bytes) : Bytes := s.beF 2 3 ++ s.beF 2 4 ++ d

@[simp] theorem icmpHead_length (s : State) : (icmpHead s).length = 2 := by simp [icmpHead]
@[simp] theorem icmpTail_length (s : State) (d : Bytes) : (icmpTail s d).length = 4 + d.length := by
  simp [icmpTail]
  omega

/-- ICMP.ENC: F2 holds the checksum too (43_icmp_ipv4_ipv6.md R161). -/
theorem icmpEnc_encoded (h : EncodesOk .icmpEnc s t) : ∃ d, InputIs s d ∧
    Encoded s t (withChecksum inet (icmpHead s) (icmpTail s d))
      ((2, (checksumOf inet (icmpHead s) (icmpTail s d)).setWidth 32) :: dataSlice 0 d.length) := by
  obtain ⟨u, hu, rfl⟩ := h.answers rfl
  obtain ⟨n, hn, hu⟩ := cmd_bind_ok hu
  obtain ⟨d, hd, hu⟩ := cmd_bind_ok hu
  obtain ⟨rfl, hin⟩ := input_inv hn hd
  refine ⟨d, hin, encoded_of_emit h.legal hu ?_ ?_ (by simp [dataSlice])⟩
  · exact patch_eq_withChecksum inet (by simp [icmpHead, icmpTail]) rfl rfl (by simp; omega)
  · simp [checksumOf, icmpHead, icmpTail]

/-- The bytes of an IPv4 header before its checksum (43_icmp_ipv4_ipv6.md R168). -/
def ip4Head (s : State) : Bytes :=
  s.beF 1 0 ++ s.beF 1 1 ++ s.beF 2 2 ++ s.beF 2 3 ++ s.beF 2 4 ++ s.beF 1 5 ++ s.beF 1 6

/-- The bytes of an IPv4 header behind its checksum, with options `opts` (R168). -/
def ip4Tail (s : State) (opts : Bytes) : Bytes := s.beF 4 8 ++ s.beF 4 9 ++ opts

@[simp] theorem ip4Head_length (s : State) : (ip4Head s).length = 10 := by simp [ip4Head]
@[simp] theorem ip4Tail_length (s : State) (opts : Bytes) : (ip4Tail s opts).length = 8 + opts.length := by
  simp [ip4Tail]
  omega

/-- IP4.ENC: the checksum is the header's alone (43_icmp_ipv4_ipv6.md R168). -/
theorem ip4Enc_encoded (h : EncodesOk .ip4Enc s t) : ∃ opts data : Bytes, opts.length = (s.freg 10).toNat ∧
    InputIs s (opts ++ data) ∧ Encoded s t (withChecksum inet (ip4Head s) (ip4Tail s opts) ++ data)
      ([(7, (checksumOf inet (ip4Head s) (ip4Tail s opts)).setWidth 32), (11, 0)] ++
        dataSlice opts.length data.length) := by
  obtain ⟨u, hu, rfl⟩ := h.answers rfl
  obtain ⟨opts, data, olen, -, -, hd, hu⟩ := readOptionsAndData_inv hu
  refine ⟨opts, data, olen, hd, encoded_of_emit h.legal hu ?_ ?_ (by simp [dataSlice])⟩
  · refine congrArg (· ++ data) ?_
    exact patch_eq_withChecksum inet (by simp [ip4Head, ip4Tail]) rfl rfl (by simp [olen]; omega)
  · simp [checksumOf, ip4Head, ip4Tail, olen]

/-- The bytes of a TCP segment before its checksum, with the offset word `w` (44_tcp_udp.md R192). -/
def tcpHead (s : State) (w : Nat) : Bytes :=
  s.beF 2 0 ++ s.beF 2 1 ++ s.beF 4 2 ++ s.beF 4 3 ++ be 2 w ++ s.beF 2 5

/-- The bytes of a TCP segment behind its checksum, with options and data `d` (R192). -/
def tcpTail (s : State) (d : Bytes) : Bytes := s.beF 2 7 ++ d

@[simp] theorem tcpHead_length (s : State) (w : Nat) : (tcpHead s w).length = 16 := by simp [tcpHead]
@[simp] theorem tcpTail_length (s : State) (d : Bytes) : (tcpTail s d).length = 2 + d.length := by simp [tcpTail]

/-- The checksum of a packet of protocol `proto` and length `n`, between the addresses in F8 and F9 (R103, R104). -/
def addressedSum (s : State) (proto n : Nat) (packet : Bytes) : Half := inetph packet (s.freg 8) (s.freg 9) proto n

/-- TCP.ENC: the offset word, which F4 holds too, and the checksum of the whole segment (44_tcp_udp.md R192). -/
theorem tcpEnc_encoded (h : EncodesOk .tcpEnc s t) : ∃ opts data : Bytes, ∃ w : Nat,
    opts.length = (s.freg 10).toNat ∧ opts.length ≤ 40 ∧ opts.length % 4 = 0 ∧
    w = tcpOffsetFlags opts.length (s.freg 4) ∧ InputIs s (opts ++ data) ∧
    Encoded s t (withChecksum (addressedSum s 6 (20 + (opts ++ data).length)) (tcpHead s w) (tcpTail s (opts ++ data)))
      ([(4, BitVec.ofNat 32 w), (6, (checksumOf (addressedSum s 6 (20 + (opts ++ data).length)) (tcpHead s w)
        (tcpTail s (opts ++ data))).setWidth 32), (11, 0)] ++ dataSlice opts.length data.length) := by
  obtain ⟨u, hu, rfl⟩ := h.answers rfl
  obtain ⟨opts, data, olen, hle, hmod, hd, hu⟩ := readOptionsAndData_inv hu
  refine ⟨opts, data, _, olen, hle, hmod, rfl, hd, encoded_of_emit h.legal hu ?_ ?_ (by simp [dataSlice])⟩
  · exact patch_eq_withChecksum (addressedSum s 6 _) (by simp [tcpHead, tcpTail, olen]) rfl rfl (by simp; omega)
  · simp [checksumOf, tcpHead, tcpTail, olen, addressedSum]

/-- The bytes of a UDP datagram before its checksum (44_tcp_udp.md R197). -/
def udpHead (s : State) (n : Nat) : Bytes := s.beF 2 0 ++ s.beF 2 1 ++ be 2 (8 + n)

@[simp] theorem udpHead_length (s : State) (n : Nat) : (udpHead s n).length = 6 := by simp [udpHead]

/-- UDP.ENC: the length, which F2 holds too, and the checksum of the whole datagram (44_tcp_udp.md R197). -/
theorem udpEnc_encoded (h : EncodesOk .udpEnc s t) : ∃ d, InputIs s d ∧
    Encoded s t (withChecksum (addressedSum s 17 (8 + d.length)) (udpHead s d.length) d)
      ([(2, BitVec.ofNat 32 (8 + d.length)),
        (3, (checksumOf (addressedSum s 17 (8 + d.length)) (udpHead s d.length) d).setWidth 32)] ++
        dataSlice 0 d.length) := by
  obtain ⟨u, hu, rfl⟩ := h.answers rfl
  obtain ⟨n, hn, hu⟩ := cmd_bind_ok hu
  obtain ⟨_, -, hu⟩ := cmd_bind_ok hu
  obtain ⟨d, hd, hu⟩ := cmd_bind_ok hu
  obtain ⟨rfl, hin⟩ := input_inv hn hd
  refine ⟨d, hin, encoded_of_emit h.legal hu ?_ ?_ (by simp [dataSlice])⟩
  · exact patch_eq_withChecksum (addressedSum s 17 _) (by simp [udpHead]) rfl rfl (by simp)
  · simp [checksumOf, udpHead, addressedSum]

end

/-! ### XFER of what an ENC made (46_control.md R230) -/

/-- In `u` the input is what was the output `out` in `t`, and what the commands read besides is as in `t`. -/
structure Received (t u : State) (out : Bytes) : Prop where
  input : InputIs u out
  freg : ∀ k, u.freg k = t.freg k
  crcrom : u.crcrom = t.crcrom
  fault : u.fault = t.fault

theorem Encoded.xfer {s t : State} {out : Bytes} {ws : List (Fin 16 × Word)} (h : Encoded s t out ws) :
    ∃ u, exec .xfer t = .next u ∧ Received t u out := by
  have hread : readObuf t 0 t.olen.toNat = .ok out := by
    rw [h.olen]
    exact memRead_ok fun i hi => by simpa [hi] using h.leaves.obuf i
  have hrun : exec .xfer t = finish t (readObuf t 0 t.olen.toNat >>= fun d =>
      pure { t with ibuf := t.ibuf.writeSeq 0 d, ilen := t.olen }) := rfl
  rw [hread, cmd_ok_bind, cmd_pure, finish_ok] at hrun
  have hfit : t.olen.toNat ≤ t.bufBytes := by
    rw [h.olen, State.bufBytes, h.leaves.bufsz]
    exact h.fits
  refine ⟨_, hrun, ⟨h.olen, hfit, fun i hi => ?_⟩, fun _ => rfl, rfl, rfl⟩
  simp [Memory.read_writeSeq_zero, hi]

/-! ### What an ENC made passes its CHK (95_test_vectors.md P2) -/

/-- A written byte, read alone. -/
theorem readIbuf_one {s : State} {a : Nat} {b : Byte} (h : s.ibuf.read a = some b) : readIbuf s a 1 = .ok [b] :=
  readIbuf_holds (d := [b]) (fun i hi => by
    rw [List.length_singleton, Nat.lt_one_iff] at hi
    subst hi
    exact h) rfl

@[simp] theorem byteAt_cons_zero (b : Byte) (d : Bytes) : byteAt (b :: d) 0 = b := rfl

theorem exec_icmpChk (s : State) : exec .icmpChk s = finish s (withMinInput s 8 fun n => checkBytes s n inet 2) := rfl

theorem exec_ip4Chk (s : State) : exec .ip4Chk s = finish s (withMinInput s 20 fun n =>
    readIbuf s 0 1 >>= fun b => ensure (hl4 (byteAt b 0) ≤ n) .tooShort >>= fun _ =>
      checkBytes s (hl4 (byteAt b 0)) inet 10) := rfl

theorem exec_tcpChk (s : State) : exec .tcpChk s = finish s (withMinInput s 20 fun n =>
    readIbuf s 12 1 >>= fun b => ensure (hlt (byteAt b 0) ≤ n) .tooShort >>= fun _ =>
      checkBytes s n (addressedSum s 6 n) 16) := rfl

theorem exec_udpChk (s : State) : exec .udpChk s =
    finish s (withMinInput s 8 fun n => checkBytes s n (addressedSum s 17 n) 6) := rfl

/-- The IHL in F0 is the header length that the CHK reads from the first byte (43_icmp_ipv4_ipv6.md R166). -/
theorem hl4_of_ihl {v o : Nat} (h : v % 16 * 4 = 20 + o) : hl4 (BitVec.ofNat 8 v) = 20 + o := by
  rw [hl4, BitVec.toNat_ofNat]
  omega

/-- The offset word of TCP.ENC gives the header length that DEC and CHK read from byte 12 (44_tcp_udp.md R191, R192). -/
theorem hlt_tcpOffsetFlags {o : Nat} (f4 : Word) (hle : o ≤ 40) (hmod : o % 4 = 0) :
    hlt (BitVec.ofNat 8 (tcpOffsetFlags o f4 / 256)) = 20 + o := by
  have hflags : f4.toNat % 2 ^ 9 < 2 ^ 12 := by omega
  have hword : tcpOffsetFlags o f4 = 2 ^ 12 * (5 + o / 4) + f4.toNat % 2 ^ 9 := by
    rw [Nat.two_pow_add_eq_or_of_lt hflags, tcpOffsetFlags, Nat.mul_comm]
  rw [hlt, BitVec.toNat_ofNat, hword]
  omega

/-- Every transfer of the packet that an ENC made in `t` passes `chk`. -/
def MadeToPass (chk : Instr) (s t : State) : Prop :=
  ∃ out ws, Encoded s t out ws ∧ ∀ u, Received t u out → Passes chk u

section
variable {s t : State}

theorem ethEnc_madeToPass (h : EncodesOk .ethEnc s t) : MadeToPass .ethChk s t := by
  obtain ⟨p, henc⟩ := ethEnc_encoded h
  refine ⟨_, _, henc, fun u hu => ⟨crc32 s.crcrom (ethHeader s ++ ethPad p), ?_⟩⟩
  have hmin : 64 ≤ u.n := by
    rw [hu.input.1]
    simp
    omega
  have hc := ethChk_completes (be_length _ _) hmin hu.input
  rwa [hu.crcrom, henc.leaves.crcrom, beVal_be_toNat 4 _ (by decide), decide_eq_true rfl] at hc

theorem icmpEnc_madeToPass (h : EncodesOk .icmpEnc s t) : MadeToPass .icmpChk s t := by
  obtain ⟨d, -, henc⟩ := icmpEnc_encoded h
  refine ⟨_, _, henc, fun u hu => ?_⟩
  obtain ⟨hlen, hfit, hold⟩ := hu.input
  have hmin : 8 ≤ u.n := by
    rw [hlen]
    simp
    omega
  exact passes_of_checkBytes (exec_icmpChk u) (withMinInput_eq hfit hmin) (icmpHead_length s) hlen.symm hold

theorem ip4Enc_madeToPass (hihl : (s.freg 0).toNat % 16 * 4 = 20 + (s.freg 10).toNat) (h : EncodesOk .ip4Enc s t) :
    MadeToPass .ip4Chk s t := by
  obtain ⟨opts, data, olen, -, henc⟩ := ip4Enc_encoded h
  refine ⟨_, _, henc, fun u hu => ?_⟩
  obtain ⟨hlen, hfit, hold⟩ := hu.input
  have hheader : (withChecksum inet (ip4Head s) (ip4Tail s opts)).length = 20 + opts.length := by
    simp
    omega
  rw [List.length_append, hheader] at hlen
  have hfirst : u.ibuf.read 0 = some (BitVec.ofNat 8 ((s.freg 0).toNat / 256 ^ 0)) := hold 0 (by simp)
  have hhl : hl4 (BitVec.ofNat 8 ((s.freg 0).toNat / 256 ^ 0)) = 20 + opts.length := by
    rw [Nat.pow_zero, Nat.div_one, olen]
    exact hl4_of_ihl hihl
  refine passes_of_checkBytes (exec_ip4Chk u) ?_ (ip4Head_length s) hheader (IbufHolds_left hold)
  rw [withMinInput_eq hfit (by omega), readIbuf_one hfirst, cmd_ok_bind, byteAt_cons_zero, hhl,
    ensure_pos (by omega), cmd_ok_bind]

/-- The addressed checksum depends on the addresses alone. -/
theorem addressedSum_congr {u : State} (h8 : u.freg 8 = s.freg 8) (h9 : u.freg 9 = s.freg 9) :
    addressedSum u = addressedSum s := by
  funext proto n packet
  rw [addressedSum, addressedSum, h8, h9]

theorem tcpEnc_madeToPass (h : EncodesOk .tcpEnc s t) : MadeToPass .tcpChk s t := by
  obtain ⟨opts, data, w, -, hle, hmod, hw, -, henc⟩ := tcpEnc_encoded h
  refine ⟨_, _, henc, fun u hu => ?_⟩
  obtain ⟨hlen, hfit, hold⟩ := hu.input
  have hn : u.n = 20 + (opts ++ data).length := by
    rw [hlen]
    simp
    omega
  have hword : u.ibuf.read 12 = some (BitVec.ofNat 8 (w / 256 ^ 1)) := hold 12 (by simp; omega)
  have hhl : hlt (BitVec.ofNat 8 (w / 256 ^ 1)) = 20 + opts.length := hw ▸ hlt_tcpOffsetFlags _ hle hmod
  have hsum : addressedSum u = addressedSum s :=
    addressedSum_congr ((hu.freg 8).trans (henc.freg 8)) ((hu.freg 9).trans (henc.freg 9))
  refine passes_of_checkBytes (exec_tcpChk u) ?_ (tcpHead_length s w) hlen.symm hold
  rw [withMinInput_eq hfit (by omega), readIbuf_one hword, cmd_ok_bind, byteAt_cons_zero, hhl,
    ensure_pos (by rw [hn, List.length_append]; omega), cmd_ok_bind, hsum, ← hn]

theorem udpEnc_madeToPass (h : EncodesOk .udpEnc s t) : MadeToPass .udpChk s t := by
  obtain ⟨d, -, henc⟩ := udpEnc_encoded h
  refine ⟨_, _, henc, fun u hu => ?_⟩
  obtain ⟨hlen, hfit, hold⟩ := hu.input
  have hn : u.n = 8 + d.length := by
    rw [hlen]
    simp
  have hsum : addressedSum u = addressedSum s :=
    addressedSum_congr ((hu.freg 8).trans (henc.freg 8)) ((hu.freg 9).trans (henc.freg 9))
  refine passes_of_checkBytes (exec_udpChk u) ?_ (udpHead_length s d.length) hlen.symm hold
  rw [withMinInput_eq hfit (by omega), hsum, ← hn]

end

/-- Settles O56: each ENC's packet is made to pass its CHK, and XFER brings the packet to the input. -/
theorem freshlyEncodedPacketsPassTheirCheck : Obligations.FreshlyEncodedPacketsPassTheirCheck := by
  intro enc chk s t hpair hihl hbuf hbusy hnext hidle hok
  have hrun : EncodesOk enc s t := ⟨hbuf, hbusy, hnext, hidle, hok⟩
  have hmade : MadeToPass chk s t := by
    simp only [List.mem_cons, Prod.mk.injEq, List.not_mem_nil, or_false] at hpair
    obtain ⟨rfl, rfl⟩ | ⟨rfl, rfl⟩ | ⟨rfl, rfl⟩ | ⟨rfl, rfl⟩ | ⟨rfl, rfl⟩ := hpair
    · exact ethEnc_madeToPass hrun
    · exact icmpEnc_madeToPass hrun
    · exact ip4Enc_madeToPass (hihl rfl) hrun
    · exact tcpEnc_madeToPass hrun
    · exact udpEnc_madeToPass hrun
  obtain ⟨out, ws, henc, hpass⟩ := hmade
  obtain ⟨u, hu, hreceived⟩ := henc.xfer
  obtain ⟨c, v, hv, hl⟩ := hpass u hreceived
  exact ⟨u, v, hu, hv, hl.busy, hl.err, hl.result, hl.fault.trans (hreceived.fault.trans henc.leaves.fault)⟩

end Sys2Proof.Machine
end

section
/-! PROOFS. What an ENC made gives back its fields and its variable bytes: Ethernet, ARP, NDP and ICMP (95_test_vectors.md P1). -/

namespace Sys2Proof.Machine

/-! ### Fields through a header and back (10_state.md R34, R41) -/

/-- The bytes of a header. -/
def layoutSize (fs : Layout) : Nat := (fs.map Prod.snd).sum

/-- The fields of a header as P1 names them: each register and its width in bits. -/
def fieldWidths (fs : Layout) : List (Fin 16 × Nat) := fs.map fun p => (p.1, 8 * p.2)

/-- The registers of a header, each truncated to its field. -/
def truncatedFields (s : State) (fs : Layout) : List (Fin 16 × Word) :=
  fs.map fun p => (p.1, BitVec.ofNat 32 ((s.freg p.1).toNat % 256 ^ p.2))

@[simp] theorem fieldBytes_length (s : State) (fs : Layout) : (fieldBytes s fs).length = layoutSize fs := by
  simp [fieldBytes, layoutSize, List.length_flatMap]

theorem beF_congr {s t : State} {k : Fin 16} (h : t.freg k = s.freg k) (n : Nat) : t.beF n k = s.beF n k := by
  rw [State.beF, State.beF, h]

theorem fieldBytes_congr {s t : State} {fs : Layout} (h : ∀ p ∈ fs, t.freg p.1 = s.freg p.1) :
    fieldBytes t fs = fieldBytes s fs := by
  induction fs with
  | nil => rfl
  | cons p fs ih =>
    rw [fieldBytes, fieldBytes, List.flatMap_cons, List.flatMap_cons, beF_congr (h p List.mem_cons_self)]
    exact congrArg _ (ih fun q hq => h q (List.mem_cons_of_mem _ hq))

/-- Reading an encoded value back truncates it (00_scope.md R8). -/
theorem wordAt_be (a z : Bytes) (n v : Nat) :
    wordAt (a ++ (be n v ++ z)) a.length (a.length + n) = BitVec.ofNat 32 (v % 256 ^ n) := by
  have hcut : seg (a ++ (be n v ++ z)) a.length (a.length + n) = be n v := by
    rw [seg, List.take_length_add_append, List.drop_left]
    simp
  rw [wordAt, hcut, beVal_be]

/-- A DEC's register writes on the bytes an ENC copied are the truncated registers. -/
theorem fieldWords_fieldBytes (s : State) (fs : Layout) (a : Bytes) :
    fieldWords (a ++ fieldBytes s fs) a.length fs = truncatedFields s fs := by
  induction fs generalizing a with
  | nil => rfl
  | cons p fs ih =>
    obtain ⟨k, n⟩ := p
    have hsplit : fieldBytes s ((k, n) :: fs) = s.beF n k ++ fieldBytes s fs := rfl
    have hrest := ih (a ++ s.beF n k)
    rw [List.append_assoc, List.length_append, State.beF_length] at hrest
    rw [fieldWords, hsplit, hrest, State.beF, wordAt_be]
    rfl

theorem lookup_truncatedFields {s : State} {fs : Layout} (hd : (fs.map Prod.fst).Nodup) {k : Fin 16} {n : Nat}
    (h : (k, n) ∈ fs) (ws : List (Fin 16 × Word)) :
    (truncatedFields s fs ++ ws).lookup k = some (BitVec.ofNat 32 ((s.freg k).toNat % 256 ^ n)) := by
  induction fs with
  | nil => cases h
  | cons p fs ih =>
    obtain ⟨hnew, hd⟩ := List.nodup_cons.1 hd
    rcases List.mem_cons.1 h with rfl | h
    · exact List.lookup_cons_self
    · have hne : (k == p.1) = false := by
        rw [beq_eq_false_iff_ne]
        rintro rfl
        exact hnew (List.mem_map.2 ⟨_, h, rfl⟩)
      rw [← ih hd h]
      simp [truncatedFields, List.lookup_cons, hne]

theorem lookup_truncatedFields_of_notMem {s : State} {fs : Layout} {k : Fin 16} (h : k ∉ fs.map Prod.fst)
    (ws : List (Fin 16 × Word)) : (truncatedFields s fs ++ ws).lookup k = ws.lookup k := by
  have hnone : (truncatedFields s fs).lookup k = none := by
    refine List.lookup_eq_none_iff.2 fun p hp => ?_
    obtain ⟨q, hq, rfl⟩ := List.mem_map.1 hp
    rw [bne_iff_ne]
    rintro rfl
    exact h (List.mem_map.2 ⟨q, hq, rfl⟩)
  rw [List.lookup_append, hnone, Option.none_or]

/-- The state after a DEC that wrote the truncated registers of `t`. -/
theorem Leaves.truncates {t u v : State} {fs : Layout} {ws : List (Fin 16 × Word)}
    (hl : Leaves .ok { regs := truncatedFields t fs ++ ws } u v) (hd : (fs.map Prod.fst).Nodup) {k : Fin 16} {w : Nat}
    (h : (k, w) ∈ fieldWidths fs) : (v.freg k).toNat = (t.freg k).toNat % 2 ^ w := by
  obtain ⟨⟨j, n⟩, hmem, hjn⟩ := List.mem_map.1 h
  obtain ⟨rfl, rfl⟩ := Prod.mk.inj hjn
  have hle : (t.freg j).toNat % 256 ^ n < 2 ^ 32 := (Nat.mod_le _ _).trans_lt (t.freg j).isLt
  have hpow : 2 ^ (8 * n) = 256 ^ n := Nat.pow_mul 2 8 n
  rw [hl.freg, lookup_truncatedFields hd hmem, Option.getD_some, BitVec.toNat_ofNat, Nat.mod_eq_of_lt hle, hpow]

/-! ### A DEC that reads one header (42_arp_ndp.md R142, R146, 43_icmp_ipv4_ipv6.md R162) -/

/-- The pseudocode of a DEC of fixed header length: the header's fields, and the slice of an input of `n` bytes. -/
def decodeHeader (s : State) (fs : Layout) (slice : Nat → List (Fin 16 × Word)) : Cmd State :=
  withMinInput s (layoutSize fs) fun n => readIbuf s 0 (layoutSize fs) >>= fun b =>
    pure (s.setFs (fieldWords b 0 fs ++ slice n))

theorem fieldWords_map_fst (b : Bytes) (a : Nat) (fs : Layout) : (fieldWords b a fs).map Prod.fst = fs.map Prod.fst := by
  induction fs generalizing a with
  | nil => rfl
  | cons p fs ih => exact congrArg (p.1 :: ·) (ih (a + p.2))

theorem decodeHeader_completes {i : Instr} {s : State} {fs : Layout} {slice : Nat → List (Fin 16 × Word)} {b : Bytes}
    (he : exec i s = finish s (decodeHeader s fs slice)) (hd : (fs.map Prod.fst ++ (slice s.n).map Prod.fst).Nodup)
    (hlen : b.length = layoutSize fs) (h : HeaderIs s b) :
    Completes i s { regs := fieldWords b 0 fs ++ slice s.n } := by
  obtain ⟨hmin, hfit, hold⟩ := h
  refine completes_of he ?_ (leaves_regs s _ (by rwa [List.map_append, fieldWords_map_fst]))
  rw [decodeHeader, withMinInput_eq hfit (hlen ▸ hmin), readIbuf_holds hold hlen, cmd_ok_bind, cmd_pure]

/-! ### What an ENC made gives back its fields (95_test_vectors.md P1) -/

/-- XFER and `dec` give back the fields and the slices of `t`. -/
def GivesBack (dec : Instr) (fields : List (Fin 16 × Nat)) (slices : List (Fin 16 × Fin 16)) (t : State) : Prop :=
  ∃ u v, exec .xfer t = .next u ∧ exec dec u = .next v ∧ v.busy = false ∧ v.err = .ok ∧
    (∀ k w, (k, w) ∈ fields → (v.freg k).toNat = (t.freg k).toNat % 2 ^ w) ∧
    ∀ len off, (len, off) ∈ slices → SliceBack len off t v

/-- A DEC that writes the truncated registers of `t` gives back the fields, and the slices that it is shown to. -/
theorem givesBack_of_completes {dec : Instr} {fs : Layout} {slices : List (Fin 16 × Fin 16)} {s t : State} {out : Bytes}
    {ws regs : List (Fin 16 × Word)} (henc : Encoded s t out ws) (hd : (fs.map Prod.fst).Nodup)
    (hdec : ∀ u, Received t u out → Completes dec u { regs := truncatedFields t fs ++ regs })
    (hslices : ∀ u v, Received t u out → Leaves .ok { regs := truncatedFields t fs ++ regs } u v →
      ∀ len off, (len, off) ∈ slices → SliceBack len off t v) :
    GivesBack dec (fieldWidths fs) slices t := by
  obtain ⟨u, hu, hreceived⟩ := henc.xfer
  obtain ⟨v, hv, hl⟩ := hdec u hreceived
  exact ⟨u, v, hu, hv, hl.busy, hl.err, fun k w => hl.truncates hd, hslices u v hreceived hl⟩

/-- Two slices of the same length whose bytes are both `d`. -/
theorem sliceBack_of_holds {len off : Fin 16} {t v : State} {d : Bytes} (hlen : v.freg len = t.freg len)
    (hd : (t.freg len).toNat = d.length) (ht : IbufHolds t (t.freg off).toNat d) (hv : IbufHolds v (v.freg off).toNat d) :
    SliceBack len off t v :=
  ⟨hlen, fun k hk => by rw [hv k (hd ▸ hk), ht k (hd ▸ hk)]⟩

theorem IbufHolds_congr {s t : State} (h : ∀ a, t.ibuf.read a = s.ibuf.read a) {a : Nat} {d : Bytes}
    (hold : IbufHolds s a d) : IbufHolds t a d := fun i hi => (h (a + i)).trans (hold i hi)

/-- A DEC of fixed header length on a packet of that header, whose fields are as in `t`. -/
theorem decodeHeader_received {dec : Instr} {fs : Layout} {slice : Nat → List (Fin 16 × Word)} {t u : State} {d : Bytes}
    (he : exec dec u = finish u (decodeHeader u fs slice)) (hu : Received t u (fieldBytes t fs ++ d))
    (hd : (fs.map Prod.fst ++ (slice (layoutSize fs + d.length)).map Prod.fst).Nodup) :
    Completes dec u { regs := truncatedFields t fs ++ slice (layoutSize fs + d.length) } := by
  obtain ⟨hlen, hfit, hold⟩ := hu.input
  rw [List.length_append, fieldBytes_length] at hlen
  rw [← hlen] at hd ⊢
  have hheader : HeaderIs u (fieldBytes t fs) := ⟨by simp [hlen], hfit, IbufHolds_left hold⟩
  have hwords : fieldWords (fieldBytes t fs) 0 fs = truncatedFields t fs := fieldWords_fieldBytes t fs []
  rw [← hwords]
  exact decodeHeader_completes he hd (fieldBytes_length t fs) hheader

/-- A DEC whose data is the rest of the input, on a packet whose ENC took the data `d` from the whole of its input. -/
theorem givesBack_of_decodeHeader {dec : Instr} {fs : Layout} {s t : State} {d : Bytes} {ws : List (Fin 16 × Word)}
    (he : ∀ u, exec dec u = finish u (decodeHeader u fs fun n => dataSlice (layoutSize fs) (n - layoutSize fs)))
    (hd : (fs.map Prod.fst ++ [12, 13]).Nodup) (hsize : layoutSize fs < 2 ^ 32) (hin : InputIs s d)
    (henc : Encoded s t (fieldBytes t fs ++ d) ws) (hoff : t.freg 12 = 0) (hlen : t.freg 13 = BitVec.ofNat 32 d.length) :
    GivesBack dec (fieldWidths fs) [(13, 12)] t := by
  refine givesBack_of_completes (regs := dataSlice (layoutSize fs) d.length) henc hd.of_append_left (fun u hu => ?_)
    fun u v hu hl len off hslice => ?_
  · have hdec := decodeHeader_received (he u) hu hd
    rwa [Nat.add_sub_cancel_left] at hdec
  · obtain ⟨rfl, rfl⟩ : len = 13 ∧ off = 12 := by simpa using hslice
    have hnew := (List.nodup_append.1 hd).2.2
    have hvlen : v.freg 13 = BitVec.ofNat 32 d.length := by
      rw [hl.freg, lookup_truncatedFields_of_notMem fun h => hnew 13 h 13 (by simp) rfl]
      rfl
    have hvoff : (v.freg 12).toNat = layoutSize fs := by
      rw [hl.freg, lookup_truncatedFields_of_notMem fun h => hnew 12 h 12 (by simp) rfl]
      exact (BitVec.toNat_ofNat ..).trans (Nat.mod_eq_of_lt hsize)
    have hdlen : (t.freg 13).toNat = d.length := by
      have hfit : d.length ≤ s.bufBytes := hin.1 ▸ hin.2.1
      rw [hlen, BitVec.toNat_ofNat, Nat.mod_eq_of_lt (hfit.trans_lt s.bufsz.isLt)]
    refine sliceBack_of_holds (hvlen.trans hlen.symm) hdlen (IbufHolds_congr henc.leaves.ibuf ?_) (IbufHolds_congr hl.ibuf ?_)
    · rw [hoff]
      exact hin.2.2
    · rw [hvoff]
      simpa using IbufHolds_right hu.input.2.2

section
variable {s t : State}

/-- A 16-bit value in a field register is copied as it is. -/
theorem beF_of_half {n : Nat} {k : Fin 16} {c : Half} (h : t.freg k = c.setWidth 32) : t.beF n k = be n c.toNat := by
  rw [State.beF, h, BitVec.toNat_setWidth, Nat.mod_eq_of_lt (c.isLt.trans (by decide))]

theorem exec_arpDec (s : State) : exec .arpDec s = finish s (decodeHeader s arpFields fun _ => []) := rfl

theorem exec_ndpDec (s : State) : exec .ndpDec s =
    finish s (decodeHeader s ndpFields fun n => dataSlice (layoutSize ndpFields) (n - layoutSize ndpFields)) := rfl

theorem exec_icmpDec (s : State) : exec .icmpDec s =
    finish s (decodeHeader s icmpFields fun n => dataSlice (layoutSize icmpFields) (n - layoutSize icmpFields)) := rfl

theorem arpEnc_givesBack (h : EncodesOk .arpEnc s t) : GivesBack .arpDec (fieldWidths arpFields) [] t := by
  have henc := arpEnc_encoded h
  rw [← fieldBytes_congr fun p _ => henc.freg p.1, ← List.append_nil (fieldBytes t arpFields)] at henc
  exact givesBack_of_completes henc (by decide) (fun u hu => decodeHeader_received (exec_arpDec u) hu (by decide)) (by simp)

theorem ndpEnc_givesBack (h : EncodesOk .ndpEnc s t) : GivesBack .ndpDec (fieldWidths ndpFields) [(13, 12)] t := by
  obtain ⟨d, hin, henc⟩ := ndpEnc_encoded h
  have hfields : ∀ p ∈ ndpFields, t.freg p.1 = s.freg p.1 := by
    simp [ndpFields, henc.freg, dataSlice, List.lookup]
  rw [← fieldBytes_congr hfields] at henc
  exact givesBack_of_decodeHeader exec_ndpDec (by decide) (by decide) hin henc (henc.freg 12) (henc.freg 13)

/-- The packet of ICMP.ENC is its header as the registers hold it afterwards, and the data. -/
theorem icmpEnc_givesBack (h : EncodesOk .icmpEnc s t) : GivesBack .icmpDec (fieldWidths icmpFields) [(13, 12)] t := by
  obtain ⟨d, hin, henc⟩ := icmpEnc_encoded h
  have hout : withChecksum inet (icmpHead s) (icmpTail s d) = fieldBytes t icmpFields ++ d := by
    have hsum : t.beF 2 2 = be 2 (checksumOf inet (icmpHead s) (icmpTail s d)).toNat := beF_of_half (henc.freg 2)
    have hkeep : ∀ k ∈ [0, 1, 3, 4], t.freg k = s.freg k := by simp [henc.freg, dataSlice, List.lookup]
    have hcopy : ∀ n, ∀ k ∈ [0, 1, 3, 4], t.beF n k = s.beF n k := fun n k hk => beF_congr (hkeep k hk) n
    simp [fieldBytes, icmpFields, hsum, hcopy, withChecksum, icmpHead, icmpTail]
  rw [hout] at henc
  exact givesBack_of_decodeHeader exec_icmpDec (by decide) (by decide) hin henc (henc.freg 12) (henc.freg 13)

/-- ETH.DEC on a frame whose header and trailer fields are as in `t` (41_ethernet.md R124). -/
theorem ethDec_received {u : State} {payload : Bytes}
    (hu : Received t u (fieldBytes t ethHeaderFields ++ payload ++ fieldBytes t ethTrailerFields))
    (hmin : 46 ≤ payload.length) : Completes .ethDec u
      { regs := truncatedFields t (ethHeaderFields ++ ethTrailerFields) ++ dataSlice 14 payload.length } := by
  obtain ⟨hlen, hfit, hold⟩ := hu.input
  have hheader : (fieldBytes t ethHeaderFields).length = 14 := fieldBytes_length ..
  have htrailer : (fieldBytes t ethTrailerFields).length = 4 := fieldBytes_length ..
  have hbody : (fieldBytes t ethHeaderFields ++ payload).length = u.n - 4 := by
    rw [hlen, List.length_append (bs := fieldBytes t ethTrailerFields), htrailer, Nat.add_sub_cancel]
  have hpayload : payload.length = u.n - 18 := by
    rw [List.length_append, hheader] at hbody
    omega
  have hwords : ethDecRegs (fieldBytes t ethHeaderFields) (fieldBytes t ethTrailerFields) u.n =
      truncatedFields t (ethHeaderFields ++ ethTrailerFields) ++ dataSlice 14 payload.length := by
    rw [ethDecRegs, hpayload, truncatedFields, List.map_append]
    exact congrArg (· ++ _) (congrArg₂ _ (fieldWords_fieldBytes t ethHeaderFields [])
      (fieldWords_fieldBytes t ethTrailerFields []))
  have htail := IbufHolds_right hold
  rw [Nat.zero_add, hbody] at htail
  rw [← hwords]
  exact ethDec_completes hfit (by omega) hheader (IbufHolds_left (IbufHolds_left hold)) htrailer htail

/-- The frame of ETH.ENC is its header and its trailer as the registers hold them afterwards, around the payload. -/
theorem ethEnc_givesBack (h : EncodesOk .ethEnc s t) :
    GivesBack .ethDec (fieldWidths (ethHeaderFields ++ ethTrailerFields)) [] t := by
  obtain ⟨p, henc⟩ := ethEnc_encoded h
  have hheader : ethHeader s = fieldBytes t ethHeaderFields := by
    have htype : t.beF 2 5 = be 2 (etherType (s.freg 4)).toNat := beF_of_half (henc.freg 5)
    have hkeep : ∀ k ∈ [0, 1, 2, 3], t.freg k = s.freg k := by simp [henc.freg, List.lookup]
    have hcopy : ∀ n, ∀ k ∈ [0, 1, 2, 3], t.beF n k = s.beF n k := fun n k hk => beF_congr (hkeep k hk) n
    simp [fieldBytes, ethHeaderFields, htype, hcopy, ethHeader]
  have htrailer : be 4 (crc32 s.crcrom (ethHeader s ++ ethPad p)).toNat = fieldBytes t ethTrailerFields := by
    rw [← show t.freg 6 = crc32 s.crcrom (ethHeader s ++ ethPad p) from henc.freg 6]
    rfl
  rw [htrailer, hheader] at henc
  exact givesBack_of_completes henc (by decide) (fun u hu => ethDec_received hu (by simp)) (by simp)

end

/-- Settles O57: each ENC's packet is the header that its registers hold, and the data. -/
theorem decodingGivesBackEthArpNdpIcmpFields : Obligations.DecodingGivesBackEthArpNdpIcmpFields := by
  intro enc dec fields slices s t hrow hbuf hbusy hnext hidle hok
  have hrun : EncodesOk enc s t := ⟨hbuf, hbusy, hnext, hidle, hok⟩
  simp only [List.mem_cons, Prod.mk.injEq, List.not_mem_nil, or_false] at hrow
  obtain ⟨rfl, rfl, rfl, rfl⟩ | ⟨rfl, rfl, rfl, rfl⟩ | ⟨rfl, rfl, rfl, rfl⟩ | ⟨rfl, rfl, rfl, rfl⟩ := hrow
  · exact ethEnc_givesBack hrun
  · exact arpEnc_givesBack hrun
  · exact ndpEnc_givesBack hrun
  · exact icmpEnc_givesBack hrun

end Sys2Proof.Machine
end

section
/-! PROOFS. The ARP and NDP commands (42_arp_ndp.md R141 to R147), and the two shapes they share with other families: a DEC of
one header, and an ENC whose data is the whole input. -/

namespace Sys2Proof.Machine

/-! ### The ends of a DEC that reads one header -/

theorem decodeHeader_faults {i : Instr} {s : State} {fs : Layout} {slice : Nat → List (Fin 16 × Word)}
    (he : exec i s = finish s (decodeHeader s fs slice)) (hfit : s.n ≤ s.bufBytes) (hmin : layoutSize fs ≤ s.n) :
    FaultsWithin i s 0 (layoutSize fs) := by
  intro k hk
  refine engineFaults_of he ?_
  rw [decodeHeader, withMinInput_eq hfit hmin, readIbuf_first_zero hk, cmd_error_bind]

/-- The four ends of a DEC of fixed header length: BadArg, TooShort, the stop at the first unwritten header byte, and the header's
fields with the slice. -/
theorem decodeHeader_ends {i : Instr} {s : State} {fs : Layout} {slice : Nat → List (Fin 16 × Word)}
    (he : exec i s = finish s (decodeHeader s fs slice)) (hd : (fs.map Prod.fst ++ (slice s.n).map Prod.fst).Nodup) :
    (s.bufBytes < s.n → Fails i s .badArg) ∧
    (s.n ≤ s.bufBytes → s.n < layoutSize fs → Fails i s .tooShort) ∧
    (s.n ≤ s.bufBytes → layoutSize fs ≤ s.n → FaultsWithin i s 0 (layoutSize fs)) ∧
    ∀ b : Bytes, b.length = layoutSize fs → HeaderIs s b → Completes i s { regs := fieldWords b 0 fs ++ slice s.n } :=
  ⟨withMinInput_fails_of_ilen he, withMinInput_fails_of_short he, decodeHeader_faults he,
    fun _ => decodeHeader_completes he hd⟩

/-- Settles O33: ARP.DEC reads the one header of `arpFields` and writes no slice. -/
theorem arpDecGivesTheFields : Obligations.ArpDecGivesTheFields :=
  ⟨decode_encode .arpDec, fun s => decodeHeader_ends (exec_arpDec s) (by decide)⟩

/-- Settles O36: NDP.DEC reads the one header of `ndpFields`, and its slice is the rest of the input. -/
theorem ndpDecGivesTheFields : Obligations.NdpDecGivesTheFields :=
  ⟨decode_encode .ndpDec, fun s => decodeHeader_ends (exec_ndpDec s) (by simp [ndpFields, dataSlice])⟩

/-! ### An ENC whose data is the whole input (30_encoding.md R90, R91) -/

/-- The pseudocode of an ENC that reads its whole input of `n` bytes `d` and then emits `out n d` and writes the registers
`ws n d`. -/
def encodeInput (s : State) (out : Nat → Bytes → Bytes) (ws : Nat → Bytes → List (Fin 16 × Word)) : Cmd State :=
  checkIlen s >>= fun n => readIbuf s 0 n >>= fun d => emit s (out n d) >>= fun t => pure (t.setFs (ws n d))

section
variable {i : Instr} {s : State} {out : Nat → Bytes → Bytes} {ws : Nat → Bytes → List (Fin 16 × Word)}

theorem encodeInput_faults (he : exec i s = finish s (encodeInput s out ws)) (h : s.n ≤ s.bufBytes) :
    FaultsWithin i s 0 s.n := by
  intro k hk
  refine engineFaults_of he ?_
  rw [encodeInput, checkIlen_ok h, cmd_ok_bind, readIbuf_first_zero hk, cmd_error_bind]

/-- With its input written, such an ENC comes to its `emit`. -/
theorem encodeInput_eq {d : Bytes} (h : InputIs s d) :
    encodeInput s out ws = emit s (out s.n d) >>= fun t => pure (t.setFs (ws s.n d)) := by
  obtain ⟨hlen, hfit, hold⟩ := h
  rw [encodeInput, checkIlen_ok hfit, cmd_ok_bind, readIbuf_holds hold hlen.symm, cmd_ok_bind]

theorem encodeInput_fails_of_output (he : exec i s = finish s (encodeInput s out ws)) {d : Bytes} (h : InputIs s d)
    (hbig : s.bufBytes < (out s.n d).length) : Fails i s .badArg := by
  refine fails_of_raise (e := .badArg) he ?_
  rw [encodeInput_eq h, emit_badArg hbig, cmd_error_bind]

theorem encodeInput_completes (he : exec i s = finish s (encodeInput s out ws)) {d : Bytes} (h : InputIs s d)
    (fits : (out s.n d).length ≤ s.bufBytes) (hd : ((ws s.n d).map Prod.fst).Nodup) :
    Completes i s { out := some (out s.n d), regs := ws s.n d } :=
  completes_of_emit he (encodeInput_eq h) fits hd

end

/-! ### NDP.ENC (R145) -/

section
variable (s : State)

/-- The bytes of an NDP header, one field behind the other. -/
theorem fieldBytes_ndpFields : fieldBytes s ndpFields =
    s.beF 1 0 ++ s.beF 1 1 ++ s.beF 2 2 ++ s.beF 4 3 ++ s.beF 4 4 ++ s.beF 4 5 ++ s.beF 4 6 ++ s.beF 4 7 := by
  simp [fieldBytes, ndpFields]

theorem exec_ndpEnc : exec .ndpEnc s =
    finish s (encodeInput s (fun _ d => fieldBytes s ndpFields ++ d) fun n _ => dataSlice 0 n) := by
  rw [fieldBytes_ndpFields]
  rfl

/-- An NDP packet has 24 header bytes in front of its options. -/
theorem ndpPacket_length {d : Bytes} (h : InputIs s d) : (fieldBytes s ndpFields ++ d).length = 24 + s.n := by
  rw [List.length_append, fieldBytes_length, h.1]
  rfl

end

/-- Settles O35: NDP.ENC is the ENC of the header `ndpFields` in front of its whole input. -/
theorem ndpEncBuildsThePacket : Obligations.NdpEncBuildsThePacket := by
  refine ⟨decode_encode .ndpEnc, fun s => ⟨fails_of_ilen (exec_ndpEnc s), encodeInput_faults (exec_ndpEnc s), fun d h =>
    ⟨fun hbig => ?_, fun fits => ?_⟩⟩⟩
  · exact encodeInput_fails_of_output (exec_ndpEnc s) h (by rwa [ndpPacket_length s h])
  · have hdone := encodeInput_completes (exec_ndpEnc s) h (by rwa [ndpPacket_length s h]) (by simp [dataSlice])
    rw [fieldBytes_ndpFields] at hdone
    simp only [List.append_assoc] at hdone ⊢
    exact hdone

/-! ### ARP.ENC (R141) -/

/-- The bytes of an ARP packet, one field behind the other. -/
theorem fieldBytes_arpFields (s : State) : fieldBytes s arpFields =
    s.beF 2 0 ++ s.beF 2 1 ++ s.beF 1 2 ++ s.beF 1 3 ++ s.beF 2 4 ++ s.beF 2 5 ++ s.beF 4 6 ++ s.beF 4 7 ++
      s.beF 2 8 ++ s.beF 4 9 ++ s.beF 4 10 := by
  simp [fieldBytes, arpFields]

/-- ARP.ENC reads neither ILEN nor IBUF: it is its `emit` alone. -/
theorem exec_arpEnc (s : State) : exec .arpEnc s = finish s (emit s (fieldBytes s arpFields)) := by
  rw [fieldBytes_arpFields]
  rfl

/-- The 28 bytes fit every legal buffer (00_scope.md R1). -/
theorem arpPacket_fits {s : State} (h : Config.legalBufBytes s.bufBytes) :
    (fieldBytes s arpFields).length ≤ s.bufBytes := by
  have hsize : layoutSize arpFields = 28 := rfl
  have hbuf : 1536 ≤ s.bufBytes := h.1
  rw [fieldBytes_length]
  omega

/-- Settles O32: ARP.ENC emits the 28 bytes of `arpFields`. -/
theorem arpEncBuildsThePacket : Obligations.ArpEncBuildsThePacket := by
  refine ⟨decode_encode .arpEnc, fun s hbuf => ?_⟩
  have hdone := completes_of_emit (ws := []) (exec_arpEnc s) (bind_pure _).symm (arpPacket_fits hbuf) .nil
  rw [fieldBytes_arpFields] at hdone
  simpa only [List.append_assoc] using hdone

/-! ### ARP.VAL and NDP.VAL (R143, R147) -/

/-- A VAL command whose predicate is the Bool `p` (10_state.md R28). -/
theorem completes_of_setResult {i : Instr} {s : State} {p q : Bool} (he : exec i s = finish s (pure (s.setResult p)))
    (h : p = q) : Completes i s { result := some q } :=
  completes_of he rfl (h ▸ leaves_result s p)

/-- Settles O34: each VAL sets RESULT to its predicate of the truncated fields. -/
theorem arpAndNdpValGiveTheirPredicates : Obligations.ArpAndNdpValGiveTheirPredicates := by
  refine ⟨decode_encode .arpVal, decode_encode .ndpVal, fun s => ⟨?_, ?_⟩⟩
  · refine completes_of_setResult (i := .arpVal) rfl ?_
    simp [State.field, Bool.beq_eq_decide_eq, Bool.and_assoc]
  · exact completes_of_setResult (i := .ndpVal) rfl rfl

end Sys2Proof.Machine
end

section
/-! PROOFS. The Internet checksum sees every change of one bit (40_checksum_engine.md R102, 43_icmp_ipv4_ipv6.md R164). -/

namespace Sys2Proof.Machine

/-! ### One bit of a byte -/

/-- Setting bits that are all clear adds them. -/
theorem toNat_xor_of_and_eq_zero {w : Nat} {x y : BitVec w} (h : x &&& y = 0#w) : (x ^^^ y).toNat = x.toNat + y.toNat := by
  have hor : x ^^^ y = x ||| y := by
    ext i hi
    have hbit : (x &&& y).getLsbD i = false := by rw [h, BitVec.getLsbD_zero]
    rw [BitVec.getLsbD_and, BitVec.getLsbD_eq_getElem hi, BitVec.getLsbD_eq_getElem hi] at hbit
    rw [BitVec.getElem_xor, BitVec.getElem_or]
    have htable : ∀ p q : Bool, (p && q) = false → (p ^^ q) = (p || q) := by decide
    exact htable _ _ hbit
  rw [hor, ← BitVec.add_eq_or_of_and_eq_zero x y h, BitVec.toNat_add_of_and_eq_zero h]

/-- A bit is clear before it is flipped, or after. -/
theorem and_bit_eq_zero_or {w : Nat} (v : BitVec w) (b : Nat) :
    v &&& (1#w <<< b) = 0#w ∨ (v ^^^ 1#w <<< b) &&& (1#w <<< b) = 0#w := by
  have hone : ∀ i, (1#w <<< b).getLsbD i = true → i = b := by
    intro i hi
    simp only [BitVec.getLsbD_shiftLeft, BitVec.getLsbD_one, Bool.and_eq_true, Bool.not_eq_true', decide_eq_true_eq,
      decide_eq_false_iff_not] at hi
    omega
  cases hv : v.getLsbD b with
  | false =>
    refine .inl (BitVec.eq_of_getLsbD_eq fun i hi => ?_)
    rw [BitVec.getLsbD_and, BitVec.getLsbD_zero]
    by_cases h : i = b
    · rw [h, hv, Bool.false_and]
    · rw [Bool.eq_false_iff.2 fun c => h (hone i c), Bool.and_false]
  | true =>
    refine .inr (BitVec.eq_of_getLsbD_eq fun i hi => ?_)
    rw [BitVec.getLsbD_and, BitVec.getLsbD_xor, BitVec.getLsbD_zero]
    by_cases h : i = b
    · rw [h, hv, Bool.true_xor, Bool.not_and_self]
    · rw [Bool.eq_false_iff.2 fun c => h (hone i c), Bool.and_false]

/-- Flipping bit `b` of a byte adds `2 ^ b` to it or takes `2 ^ b` from it. -/
theorem toNat_flipBit (v : Byte) {b : Nat} (hb : b < 8) :
    (v ^^^ 1#8 <<< b).toNat = v.toNat + 2 ^ b ∨ v.toNat = (v ^^^ 1#8 <<< b).toNat + 2 ^ b := by
  have hbit : (1#8 <<< b).toNat = 2 ^ b := by
    rw [BitVec.toNat_shiftLeft, BitVec.toNat_ofNat, Nat.one_mod, Nat.one_shiftLeft,
      Nat.mod_eq_of_lt (Nat.pow_lt_pow_right (by decide) hb)]
  rcases and_bit_eq_zero_or v b with h | h
  · exact .inl (hbit ▸ toNat_xor_of_and_eq_zero h)
  · have hback := toNat_xor_of_and_eq_zero h
    rw [BitVec.xor_assoc, BitVec.xor_self, BitVec.xor_zero, hbit] at hback
    exact .inr hback

/-! ### One byte of the word sum (R102) -/

/-- The weight of byte `i` in the word sum: a high byte at an even place, a low byte at an odd one. -/
def byteWeight (i : Nat) : Nat := if i % 2 = 0 then 256 else 1

/-- Another byte at place `i` changes the word sum by the difference of the bytes, weighed. -/
theorem wordSum_set (d : Bytes) (i : Nat) (x : Byte) (h : i < d.length) :
    wordSum (d.set i x) + (byteAt d i).toNat * byteWeight i = wordSum d + x.toNat * byteWeight i := by
  induction d using wordSum.induct generalizing i with
  | case1 => cases h
  | case2 b =>
    obtain rfl : i = 0 := by simpa using h
    simp [wordSum, byteAt, byteWeight, Nat.add_comm]
  | case3 a b t ih =>
    match i with
    | 0 => simp [wordSum, byteAt, byteWeight]; omega
    | 1 => simp [wordSum, byteAt, byteWeight]; omega
    | i + 2 =>
      have hrest := ih i (by simpa using h)
      have hbyte : byteAt (a :: b :: t) (i + 2) = byteAt t i := by simp [byteAt]
      have hweight : byteWeight (i + 2) = byteWeight i := by simp [byteWeight]
      rw [hbyte, hweight, List.set_cons_succ, List.set_cons_succ, wordSum, wordSum]
      omega

/-- Equal checksums come of word sums that are congruent modulo 65535. -/
theorem wordSum_mod_of_inet_eq {d e : Bytes} (h : inet d = inet e) : wordSum d % 65535 = wordSum e % 65535 := by
  have hsum : 0xFFFF - onesComplement (wordSum d) = 0xFFFF - onesComplement (wordSum e) := by
    rw [← inet_toNat, ← inet_toNat, h]
  have hd := onesComplement_le (wordSum d)
  have he := onesComplement_le (wordSum e)
  have heq : onesComplement (wordSum d) = onesComplement (wordSum e) := by omega
  unfold onesComplement at heq
  split at heq <;> split at heq <;> omega

/-- Settles O25: the flip moves the word sum by `2 ^ b` or `2 ^ b * 256`, which is no multiple of 65535. -/
theorem inetSeesEverySingleBitFlip : Obligations.InetSeesEverySingleBitFlip := by
  intro d i b hi hb heq
  have hsum := wordSum_set d i (byteAt d i ^^^ 1#8 <<< b) hi
  have hmod := wordSum_mod_of_inet_eq heq
  have hpos : 0 < 2 ^ b := Nat.two_pow_pos b
  have hle : 2 ^ b ≤ 2 ^ 7 := Nat.pow_le_pow_right (by decide) (by omega)
  have hweight : byteWeight i = 256 ∨ byteWeight i = 1 := by
    unfold byteWeight
    split <;> simp
  rcases hweight with hw | hw <;> rw [hw] at hsum <;> rcases toNat_flipBit (byteAt d i) hb with hflip | hflip <;> omega

end Sys2Proof.Machine
end

section
/-! PROOFS. The ICMP commands and UDP.DEC (43_icmp_ipv4_ipv6.md R161 to R164, 44_tcp_udp.md R198), the predicates of ICMP, IPv4
and IPv6 (R163, R170, R175), and the IPv6 commands (R173, R174). -/

namespace Sys2Proof.Machine

/-! ### The ends of an ENC whose data is the whole input, and of a CHK of the whole input -/

/-- What such an ENC emits and writes matters only where `n` is the length of the data. -/
theorem encodeInput_congr {s : State} {out out' : Nat → Bytes → Bytes} {ws ws' : Nat → Bytes → List (Fin 16 × Word)}
    (hout : ∀ d, out d.length d = out' d.length d) (hws : ∀ d, ws d.length d = ws' d.length d) :
    encodeInput s out ws = encodeInput s out' ws' := by
  unfold encodeInput
  cases hn : checkIlen s with
  | error e => rfl
  | ok n =>
    cases hd : readIbuf s 0 n with
    | error e => simp [hd]
    | ok d =>
      obtain ⟨rfl, -⟩ := input_inv hn hd
      simp [hd, hout, hws]

/-- The ends of an ENC with `m` bytes in front of the data: BadArg, the stop at the first unwritten input byte, BadArg for an
output that does not fit, and the output with the register writes (30_encoding.md R90, R91). -/
theorem encodeInput_ends {i : Instr} {s : State} {out : Nat → Bytes → Bytes} {ws : Nat → Bytes → List (Fin 16 × Word)}
    {m : Nat} (he : exec i s = finish s (encodeInput s out ws)) (hlen : ∀ d, (out d.length d).length = m + d.length)
    (hd : ∀ n d, ((ws n d).map Prod.fst).Nodup) :
    (s.bufBytes < s.n → Fails i s .badArg) ∧ (s.n ≤ s.bufBytes → FaultsWithin i s 0 s.n) ∧
    ∀ d, InputIs s d → (s.bufBytes < m + s.n → Fails i s .badArg) ∧
      (m + s.n ≤ s.bufBytes → Completes i s { out := some (out s.n d), regs := ws s.n d }) := by
  refine ⟨fails_of_ilen he, encodeInput_faults he, fun d h => ?_⟩
  have hout : (out s.n d).length = m + s.n := by rw [h.1, hlen]
  exact ⟨fun hbig => encodeInput_fails_of_output he h (hout ▸ hbig),
    fun fits => encodeInput_completes he h (hout ▸ fits) (hd _ d)⟩

theorem checkBytes_faults {i : Instr} {s : State} {r : Cmd State} {n pos : Nat} {f : Bytes → Half}
    (he : exec i s = finish s r) (hr : r = checkBytes s n f pos) : FaultsWithin i s 0 n := by
  intro k hk
  refine engineFaults_of he ?_
  rw [hr, checkBytes, readIbuf_first_zero hk, cmd_error_bind]

theorem checkBytes_completes {i : Instr} {s : State} {r : Cmd State} {n pos : Nat} {f : Bytes → Half} {a stored z : Bytes}
    (he : exec i s = finish s r) (hr : r = checkBytes s n f pos) (ha : a.length = pos) (hs : stored.length = 2)
    (hlen : (a ++ stored ++ z).length = n) (hold : IbufHolds s 0 (a ++ stored ++ z)) :
    Completes i s { csum := some ((checksumOf f a z).setWidth 32)
                    result := some (decide ((checksumOf f a z).toNat = beVal stored)) } :=
  completes_of he (hr.trans (checkBytes_append hs ha hlen hold)) (leaves_csum_result s _ _)

/-- The ends of a CHK of its whole input, at least `m` bytes: BadArg, TooShort, the stop at the first unwritten input byte, and
the recomputed checksum compared with the stored one (30_encoding.md R90, R93). -/
theorem checkInput_ends {i : Instr} {s : State} {m pos : Nat} {f : Nat → Bytes → Half}
    (he : exec i s = finish s (withMinInput s m fun n => checkBytes s n (f n) pos)) :
    (s.bufBytes < s.n → Fails i s .badArg) ∧
    (s.n ≤ s.bufBytes → s.n < m → Fails i s .tooShort) ∧
    (s.n ≤ s.bufBytes → m ≤ s.n → FaultsWithin i s 0 s.n) ∧
    ∀ a stored z : Bytes, a.length = pos → stored.length = 2 → m ≤ s.n → InputIs s (a ++ stored ++ z) →
      Completes i s { csum := some ((checksumOf (f s.n) a z).setWidth 32)
                      result := some (decide ((checksumOf (f s.n) a z).toNat = beVal stored)) } :=
  ⟨withMinInput_fails_of_ilen he, withMinInput_fails_of_short he,
    fun hfit hmin => checkBytes_faults he (withMinInput_eq hfit hmin),
    fun _ _ _ ha hs hmin ⟨hlen, hfit, hold⟩ =>
      checkBytes_completes he (withMinInput_eq hfit hmin) ha hs hlen.symm hold⟩

/-! ### ICMP.ENC (R161) -/

/-- ICMP.ENC emits the packet that carries its own checksum. -/
theorem exec_icmpEnc (s : State) : exec .icmpEnc s =
    finish s (encodeInput s (fun _ d => withChecksum inet (icmpHead s) (icmpTail s d))
      fun n d => (2, (checksumOf inet (icmpHead s) (icmpTail s d)).setWidth 32) :: dataSlice 0 n) := by
  have hpacket : ∀ d, s.beF 1 0 ++ s.beF 1 1 ++ zeros 2 ++ s.beF 2 3 ++ s.beF 2 4 ++ d =
      icmpHead s ++ zeros 2 ++ icmpTail s d := by simp [icmpHead, icmpTail]
  refine Eq.trans rfl (congrArg (finish s) (encodeInput_congr (fun d => ?_) fun d => ?_))
  · exact patch_eq_withChecksum inet (hpacket d) (icmpHead_length s) (by simp) (by simp; omega)
  · simp only [hpacket, checksumOf]

/-- The packet of ICMP.ENC, field by field. -/
theorem icmpPacket_eq (s : State) (d : Bytes) : withChecksum inet (icmpHead s) (icmpTail s d) =
    s.beF 1 0 ++ s.beF 1 1 ++ be 2 (checksumOf inet (icmpHead s) (icmpTail s d)).toNat ++ s.beF 2 3 ++ s.beF 2 4 ++ d := by
  simp [withChecksum, icmpHead, icmpTail]

/-- Settles O37: ICMP.ENC is the ENC of a packet with its own checksum, 8 bytes longer than its input. -/
theorem icmpEncBuildsThePacket : Obligations.IcmpEncBuildsThePacket := by
  refine ⟨decode_encode .icmpEnc, fun s => ?_⟩
  obtain ⟨hilen, hfault, hends⟩ := encodeInput_ends (m := 8) (exec_icmpEnc s) (fun d => by simp; omega) (by simp [dataSlice])
  refine ⟨hilen, hfault, fun d c h hc => ?_⟩
  have hsum : checksumOf inet (icmpHead s) (icmpTail s d) = c := by
    rw [hc]
    simp [checksumOf, icmpHead, icmpTail, zeros, List.replicate]
  have hd := hends d h
  rw [icmpPacket_eq, hsum] at hd
  exact hd

/-! ### ICMP.DEC and UDP.DEC (R162, 44_tcp_udp.md R198) -/

/-- The fields of a UDP header (44_tcp_udp.md R197, R198). -/
def udpFields : Layout := [(0, 2), (1, 2), (2, 2), (3, 2)]

theorem exec_udpDec (s : State) : exec .udpDec s =
    finish s (decodeHeader s udpFields fun n => dataSlice (layoutSize udpFields) (n - layoutSize udpFields)) := rfl

/-- Settles O38: both read one header of 8 bytes, and their slice is the rest of the input. -/
theorem icmpAndUdpDecGiveTheFields : Obligations.IcmpAndUdpDecGiveTheFields := by
  refine ⟨decode_encode .icmpDec, decode_encode .udpDec, fun s => ?_⟩
  obtain ⟨icmpIlen, icmpShort, icmpFault, icmpDone⟩ := decodeHeader_ends (exec_icmpDec s) (by simp [icmpFields, dataSlice])
  obtain ⟨udpIlen, udpShort, udpFault, udpDone⟩ := decodeHeader_ends (exec_udpDec s) (by simp [udpFields, dataSlice])
  exact ⟨fun h => ⟨icmpIlen h, udpIlen h⟩, fun hfit h => ⟨icmpShort hfit h, udpShort hfit h⟩,
    fun hfit h => ⟨icmpFault hfit h, udpFault hfit h⟩, fun b hlen h => ⟨icmpDone b hlen h, udpDone b hlen h⟩⟩

/-! ### ICMP.CHK (R164) -/

/-- Settles O40: ICMP.CHK compares the checksum of its whole input. -/
theorem icmpChkComparesTheChecksum : Obligations.IcmpChkComparesTheChecksum := by
  refine ⟨decode_encode .icmpChk, fun s => ?_⟩
  obtain ⟨hilen, hshort, hfault, hdone⟩ := checkInput_ends (f := fun _ => inet) (exec_icmpChk s)
  refine ⟨hilen, hshort, hfault, fun a stored z c ha hs hmin h hc => ?_⟩
  rw [hc]
  exact hdone a stored z ha hs hmin h

/-! ### ICMP.VAL, IP4.VAL and IP6.VAL (R163, R170, R175) -/

/-- The bit field [a + m - 1 : a] of a word, compared with a value. -/
theorem extractLsb'_beq (v : Word) (a m : Nat) (x : BitVec m) :
    (v.extractLsb' a m == x) = decide (v.toNat / 2 ^ a % 2 ^ m = x.toNat) := by
  rw [Bool.beq_eq_decide_eq]
  refine decide_eq_decide.2 ?_
  rw [← BitVec.toNat_inj, BitVec.extractLsb'_toNat, Nat.shiftRight_eq_div_pow]

/-- Settles O39: each VAL sets RESULT to its predicate, the version as a bit field of F0. -/
theorem icmpAndIpValGiveTheirPredicates : Obligations.IcmpAndIpValGiveTheirPredicates := by
  refine ⟨decode_encode .icmpVal, decode_encode .ip4Val, decode_encode .ip6Val, fun s => ⟨?_, ?_, ?_⟩⟩
  · exact completes_of_setResult (i := .icmpVal) rfl rfl
  · refine completes_of_setResult (i := .ip4Val) rfl ?_
    rw [extractLsb'_beq, Bool.decide_and]
    rfl
  · refine completes_of_setResult (i := .ip6Val) rfl ?_
    have htop : (s.freg 0).toNat / 2 ^ 28 % 2 ^ 4 = (s.freg 0).toNat / 2 ^ 28 := by have := (s.freg 0).isLt; omega
    rw [extractLsb'_beq, htop]
    rfl

/-! ### IP6.ENC and IP6.DEC (R173, R174) -/

/-- The fields of an IPv6 header (R173, R174). -/
def ip6Fields : Layout :=
  [(0, 4), (1, 2), (2, 1), (3, 1), (4, 4), (5, 4), (6, 4), (7, 4), (8, 4), (9, 4), (10, 4), (11, 4)]

/-- The bytes of an IPv6 header, one field behind the other. -/
theorem fieldBytes_ip6Fields (s : State) : fieldBytes s ip6Fields =
    s.beF 4 0 ++ s.beF 2 1 ++ s.beF 1 2 ++ s.beF 1 3 ++ s.beF 4 4 ++ s.beF 4 5 ++ s.beF 4 6 ++ s.beF 4 7 ++
      s.beF 4 8 ++ s.beF 4 9 ++ s.beF 4 10 ++ s.beF 4 11 := by
  simp [fieldBytes, ip6Fields]

theorem exec_ip6Enc (s : State) : exec .ip6Enc s =
    finish s (encodeInput s (fun _ d => fieldBytes s ip6Fields ++ d) fun n _ => dataSlice 0 n) := by
  rw [fieldBytes_ip6Fields]
  rfl

theorem exec_ip6Dec (s : State) : exec .ip6Dec s =
    finish s (decodeHeader s ip6Fields fun n => dataSlice (layoutSize ip6Fields) (n - layoutSize ip6Fields)) := rfl

/-- Settles O44: IP6.ENC is the ENC of the 40 bytes of `ip6Fields` in front of its whole input. -/
theorem ip6EncBuildsThePacket : Obligations.Ip6EncBuildsThePacket := by
  refine ⟨decode_encode .ip6Enc, fun s => ?_⟩
  obtain ⟨hilen, hfault, hends⟩ := encodeInput_ends (m := 40) (exec_ip6Enc s)
    (fun d => by rw [List.length_append, fieldBytes_length]; rfl) (by simp [dataSlice])
  refine ⟨hilen, hfault, fun d h => ?_⟩
  have hd := hends d h
  rw [fieldBytes_ip6Fields] at hd
  simp only [List.append_assoc] at hd ⊢
  exact hd

/-- Settles O45: IP6.DEC reads the one header of `ip6Fields`, and its slice is the rest of the input. -/
theorem ip6DecGivesTheFields : Obligations.Ip6DecGivesTheFields :=
  ⟨decode_encode .ip6Dec, fun s => decodeHeader_ends (exec_ip6Dec s) (by simp [ip6Fields, dataSlice])⟩

end Sys2Proof.Machine
end

section
/-! PROOFS. The shapes of the commands with options: an ENC that reads options and data, a DEC and a CHK that take the header
length from a byte of the header (30_encoding.md R92, 43_icmp_ipv4_ipv6.md R166 to R171, 44_tcp_udp.md R191 to R195), and the IPv4
commands. -/

namespace Sys2Proof.Machine

/-! ### An ENC that reads options and data (30_encoding.md R92) -/

section
variable {i : Instr} {s : State} {k : Nat → Bytes → Bytes → Cmd State}

/-- BadArg for an input, an options length or a packet out of range comes before any read. -/
theorem readOptionsAndData_fails (he : exec i s = finish s (readOptionsAndData s k))
    (h : ¬ (s.n ≤ s.bufBytes ∧ ((s.freg 10).toNat ≤ 40 ∧ (s.freg 10).toNat % 4 = 0 ∧ (s.freg 10).toNat ≤ s.n) ∧
      20 + s.n ≤ s.bufBytes)) : Fails i s .badArg := by
  by_cases hfit : s.n ≤ s.bufBytes
  · refine fails_of_raise (e := .badArg) he ?_
    rw [readOptionsAndData, checkIlen_ok hfit, cmd_ok_bind]
    by_cases hopt : (s.freg 10).toNat ≤ 40 ∧ (s.freg 10).toNat % 4 = 0 ∧ (s.freg 10).toNat ≤ s.n
    · rw [checkOpt_ok hopt, cmd_ok_bind, ensure_neg fun hlen => h ⟨hfit, hopt, hlen⟩, cmd_error_bind]
    · rw [checkOpt_badArg hopt, cmd_error_bind]
  · exact fails_of_ilen he (Nat.not_le.1 hfit)

section
variable (hopt : (s.freg 10).toNat ≤ 40 ∧ (s.freg 10).toNat % 4 = 0 ∧ (s.freg 10).toNat ≤ s.n)
  (hlen : 20 + s.n ≤ s.bufBytes)
include hopt hlen

theorem readOptionsAndData_reads : readOptionsAndData s k =
    readIbuf s 0 (s.freg 10).toNat >>= fun opts =>
      readIbuf s (s.freg 10).toNat (s.n - (s.freg 10).toNat) >>= fun data => k s.n opts data := by
  have hfit : s.n ≤ s.bufBytes := (Nat.le_add_left s.n 20).trans hlen
  rw [readOptionsAndData, checkIlen_ok hfit, cmd_ok_bind, checkOpt_ok hopt, cmd_ok_bind, ensure_pos hlen, cmd_ok_bind]

/-- The two reads stop at the first unwritten input byte, among the options or behind them. -/
theorem readOptionsAndData_faults (he : exec i s = finish s (readOptionsAndData s k)) : FaultsWithin i s 0 s.n := by
  rintro j ⟨-, hj, hnone, hbefore⟩
  refine engineFaults_of he ?_
  rw [readOptionsAndData_reads hopt hlen]
  by_cases hin : j < (s.freg 10).toNat
  · rw [readIbuf_first_zero ⟨Nat.zero_le j, hin, hnone, hbefore⟩, cmd_error_bind]
  · obtain ⟨opts, olen, ohold⟩ := exists_holds (s := s) (a := 0) (n := (s.freg 10).toNat) fun l hl =>
      hbefore (0 + l) (by omega) (Nat.zero_le _)
    rw [readIbuf_holds ohold olen, cmd_ok_bind,
      readIbuf_first ⟨Nat.not_lt.1 hin, hj, hnone, fun l hl _ => hbefore l hl (Nat.zero_le l)⟩, cmd_error_bind]

theorem readOptionsAndData_eq {opts data : Bytes} (olen : opts.length = (s.freg 10).toNat)
    (h : InputIs s (opts ++ data)) : readOptionsAndData s k = k s.n opts data := by
  obtain ⟨hn, -, hold⟩ := h
  have hdata := IbufHolds_right hold
  rw [Nat.zero_add, olen] at hdata
  rw [readOptionsAndData_reads hopt hlen, readIbuf_holds (IbufHolds_left hold) olen, cmd_ok_bind,
    readIbuf_holds hdata (by rw [hn, List.length_append, olen, Nat.add_sub_cancel_left]), cmd_ok_bind]

end

end

/-! ### IP4.ENC (43_icmp_ipv4_ipv6.md R168) -/


/-- The IPv4 header with zeros in the checksum's place, field by field (R168). -/
theorem ip4Zeroed_eq (s : State) (opts : Bytes) : ip4Head s ++ zeros 2 ++ ip4Tail s opts =
    s.beF 1 0 ++ s.beF 1 1 ++ s.beF 2 2 ++ s.beF 2 3 ++ s.beF 2 4 ++ s.beF 1 5 ++ s.beF 1 6 ++ zeros 2 ++ s.beF 4 8 ++
      s.beF 4 9 ++ opts := by
  simp [ip4Head, ip4Tail]

/-- The IPv4 packet, field by field (R168). -/
theorem ip4Packet_eq (s : State) (opts data : Bytes) : withChecksum inet (ip4Head s) (ip4Tail s opts) ++ data =
    s.beF 1 0 ++ s.beF 1 1 ++ s.beF 2 2 ++ s.beF 2 3 ++ s.beF 2 4 ++ s.beF 1 5 ++ s.beF 1 6 ++
      be 2 (checksumOf inet (ip4Head s) (ip4Tail s opts)).toNat ++ s.beF 4 8 ++ s.beF 4 9 ++ opts ++ data := by
  simp [withChecksum, ip4Head, ip4Tail]

/-- What IP4.ENC does with the bytes it read. -/
def ip4EncTail (s : State) (n : Nat) (opts data : Bytes) : Cmd State :=
  let z := s.beF 1 0 ++ s.beF 1 1 ++ s.beF 2 2 ++ s.beF 2 3 ++ s.beF 2 4 ++ s.beF 1 5 ++ s.beF 1 6 ++ zeros 2 ++ s.beF 4 8 ++
    s.beF 4 9 ++ opts
  emit s (seg z 0 10 ++ be 2 (inet z).toNat ++ seg z 12 (20 + (s.freg 10).toNat) ++ data) >>= fun t =>
    pure (t.setFs ([(7, (inet z).setWidth 32), (11, 0)] ++ dataSlice (s.freg 10).toNat (n - (s.freg 10).toNat)))

theorem exec_ip4Enc (s : State) : exec .ip4Enc s = finish s (readOptionsAndData s (ip4EncTail s)) := rfl

/-- IP4.ENC emits the header that carries its own checksum, and the data behind it. -/
theorem ip4EncTail_eq {s : State} {opts : Bytes} (data : Bytes) (n : Nat) (olen : opts.length = (s.freg 10).toNat) :
    ip4EncTail s n opts data = emit s (withChecksum inet (ip4Head s) (ip4Tail s opts) ++ data) >>= fun t =>
      pure (t.setFs ([(7, (checksumOf inet (ip4Head s) (ip4Tail s opts)).setWidth 32), (11, 0)] ++
        dataSlice (s.freg 10).toNat (n - (s.freg 10).toNat))) := by
  rw [ip4EncTail, ← ip4Zeroed_eq, patch_eq_withChecksum inet rfl (ip4Head_length s) (by simp) (by simp; omega)]
  rfl

theorem ip4Enc_completes {s : State} {opts data : Bytes}
    (hopt : (s.freg 10).toNat ≤ 40 ∧ (s.freg 10).toNat % 4 = 0 ∧ (s.freg 10).toNat ≤ s.n) (hlen : 20 + s.n ≤ s.bufBytes)
    (olen : opts.length = (s.freg 10).toNat) (h : InputIs s (opts ++ data)) : Completes .ip4Enc s {
      out := some (withChecksum inet (ip4Head s) (ip4Tail s opts) ++ data)
      regs := [(7, (checksumOf inet (ip4Head s) (ip4Tail s opts)).setWidth 32), (11, 0)] ++
        dataSlice (s.freg 10).toNat (s.n - (s.freg 10).toNat) } := by
  refine completes_of_emit (exec_ip4Enc s) ((readOptionsAndData_eq hopt hlen olen h).trans (ip4EncTail_eq data _ olen)) ?_
    (by simp [dataSlice])
  have hn := h.1
  rw [List.length_append] at hn
  simp only [List.length_append, withChecksum_length, ip4Head_length, ip4Tail_length]
  omega

/-- Settles O41: the checks, the reads, and the packet, each by its own lemma. -/
theorem ip4EncBuildsThePacket : Obligations.Ip4EncBuildsThePacket := by
  refine ⟨decode_encode .ip4Enc, fun s o ho => ?_⟩
  subst ho
  refine ⟨fun h => readOptionsAndData_fails (exec_ip4Enc s) (by omega), fun hle hmod hin hlen => ?_⟩
  have hopt := And.intro hle (And.intro hmod hin)
  refine ⟨readOptionsAndData_faults hopt hlen (exec_ip4Enc s), fun opts data c olen h hc => ?_⟩
  have hsum : checksumOf inet (ip4Head s) (ip4Tail s opts) = c := by
    rw [checksumOf, ip4Zeroed_eq, hc]
    rfl
  have hdone := ip4Enc_completes hopt hlen olen h
  rw [ip4Packet_eq, hsum] at hdone
  exact hdone

/-! ### A DEC whose header length stands in the header (R166, R167, R169, 44_tcp_udp.md R191, R193) -/

/-- The pseudocode of a DEC with options: the 20 bytes of the fixed fields, the header length `hl` of them, TooShort for an input
below it, and the slices of the options and of the data, whose length is `len`. -/
def decodeOptions (s : State) (fs : Layout) (hl : Bytes → Nat) (len : Bytes → Nat → Nat) : Cmd State :=
  withMinInput s 20 fun n => readIbuf s 0 20 >>= fun h => ensure (hl h ≤ n) .tooShort >>= fun _ =>
    pure (s.setFs (fieldWords h 0 fs ++ optionsSlice (hl h - 20) 20 ++ dataSlice (hl h) (len h n)))

section
variable {i : Instr} {s : State} {fs : Layout} {hl : Bytes → Nat} {len : Bytes → Nat → Nat}
  (he : exec i s = finish s (decodeOptions s fs hl len))
include he

theorem decodeOptions_faults (hfit : s.n ≤ s.bufBytes) (hmin : 20 ≤ s.n) : FaultsWithin i s 0 20 := by
  intro k hk
  refine engineFaults_of he ?_
  rw [decodeOptions, withMinInput_eq hfit hmin, readIbuf_first_zero hk, cmd_error_bind]

theorem decodeOptions_fails_of_short {h : Bytes} (hlen : h.length = 20) (hh : HeaderIs s h) (hshort : s.n < hl h) :
    Fails i s .tooShort := by
  obtain ⟨hmin, hfit, hold⟩ := hh
  refine fails_of_raise (e := .tooShort) he ?_
  rw [decodeOptions, withMinInput_eq hfit (hlen ▸ hmin), readIbuf_holds hold hlen, cmd_ok_bind,
    ensure_neg (Nat.not_le.2 hshort), cmd_error_bind]

theorem decodeOptions_completes (hd : (fs.map Prod.fst ++ [10, 11, 12, 13]).Nodup) {h : Bytes} (hlen : h.length = 20)
    (hh : HeaderIs s h) (hle : hl h ≤ s.n) : Completes i s
      { regs := fieldWords h 0 fs ++ optionsSlice (hl h - 20) 20 ++ dataSlice (hl h) (len h s.n) } := by
  obtain ⟨hmin, hfit, hold⟩ := hh
  refine completes_of he ?_ (leaves_regs s _ ?_)
  · rw [decodeOptions, withMinInput_eq hfit (hlen ▸ hmin), readIbuf_holds hold hlen, cmd_ok_bind, ensure_pos hle,
      cmd_ok_bind, cmd_pure]
  · rw [List.append_assoc, List.map_append, fieldWords_map_fst]
    exact hd

/-- The ends of a DEC with options: BadArg, TooShort below the fixed fields, the stop at their first unwritten byte, TooShort below
the header length, and the fields with both slices. -/
theorem decodeOptions_ends (hd : (fs.map Prod.fst ++ [10, 11, 12, 13]).Nodup) :
    (s.bufBytes < s.n → Fails i s .badArg) ∧
    (s.n ≤ s.bufBytes → s.n < 20 → Fails i s .tooShort) ∧
    (s.n ≤ s.bufBytes → 20 ≤ s.n → FaultsWithin i s 0 20) ∧
    ∀ h : Bytes, h.length = 20 → HeaderIs s h →
      (s.n < hl h → Fails i s .tooShort) ∧
      (hl h ≤ s.n → Completes i s
        { regs := fieldWords h 0 fs ++ optionsSlice (hl h - 20) 20 ++ dataSlice (hl h) (len h s.n) }) :=
  ⟨withMinInput_fails_of_ilen he, withMinInput_fails_of_short he, decodeOptions_faults he,
    fun _ hlen hh => ⟨decodeOptions_fails_of_short he hlen hh, decodeOptions_completes he hd hlen hh⟩⟩

end

/-- The fields of an IPv4 header before the options (R168, R169). -/
def ip4Fields : Layout := [(0, 1), (1, 1), (2, 2), (3, 2), (4, 2), (5, 1), (6, 1), (7, 2), (8, 4), (9, 4)]

theorem exec_ip4Dec (s : State) : exec .ip4Dec s = finish s (decodeOptions s ip4Fields (fun h => hl4 (byteAt h 0))
    fun h n => ip4DataLength (hl4 (byteAt h 0)) (beVal (seg h 2 4)) n) := rfl

/-- The header length from the low 4 bits of the first byte (R166). -/
theorem hl4_eq_mask (b : Byte) : hl4 b = max 20 ((b.toNat &&& 0x0F) * 4) := by
  rw [hl4, ← Nat.and_two_pow_sub_one_eq_mod b.toNat 4]

/-- Settles O42: IP4.DEC is the DEC with options of `ip4Fields`, with the header length of R166 and the data length of R167. -/
theorem ip4DecGivesTheFields : Obligations.Ip4DecGivesTheFields := by
  refine ⟨decode_encode .ip4Dec, fun s => ?_⟩
  obtain ⟨hilen, hshort, hfault, hends⟩ := decodeOptions_ends (exec_ip4Dec s) (by decide)
  refine ⟨hilen, hshort, hfault, fun h hl tl hlen hh hhl htl => ?_⟩
  rw [← hl4_eq_mask] at hhl
  subst hhl htl
  exact hends h hlen hh

/-! ### A CHK that reads the header length first (R171, 44_tcp_udp.md R195) -/

/-- The pseudocode such a CHK begins with: the header length `hl` of byte `a`, and TooShort for an input below it. -/
def withHeaderLength (s : State) (a : Nat) (hl : Byte → Nat) (k : Nat → Nat → Cmd State) : Cmd State :=
  withMinInput s 20 fun n => readIbuf s a 1 >>= fun b => ensure (hl (byteAt b 0) ≤ n) .tooShort >>= fun _ =>
    k n (hl (byteAt b 0))

section
variable {i : Instr} {s : State} {a : Nat} {hl : Byte → Nat} {k : Nat → Nat → Cmd State} (hfit : s.n ≤ s.bufBytes)
  (hmin : 20 ≤ s.n)
include hfit hmin

theorem withHeaderLength_faults (he : exec i s = finish s (withHeaderLength s a hl k)) : FaultsWithin i s a (a + 1) := by
  intro j hj
  have hread := readIbuf_first hj
  rw [Nat.add_sub_cancel_left] at hread
  refine engineFaults_of he ?_
  rw [withHeaderLength, withMinInput_eq hfit hmin, hread, cmd_error_bind]

theorem withHeaderLength_fails_of_short (he : exec i s = finish s (withHeaderLength s a hl k)) {b : Byte}
    (hb : s.ibuf.read a = some b) (hshort : s.n < hl b) : Fails i s .tooShort := by
  refine fails_of_raise (e := .tooShort) he ?_
  rw [withHeaderLength, withMinInput_eq hfit hmin, readIbuf_one hb, cmd_ok_bind, byteAt_cons_zero,
    ensure_neg (Nat.not_le.2 hshort), cmd_error_bind]

theorem withHeaderLength_eq {b : Byte} (hb : s.ibuf.read a = some b) (hle : hl b ≤ s.n) :
    withHeaderLength s a hl k = k s.n (hl b) := by
  rw [withHeaderLength, withMinInput_eq hfit hmin, readIbuf_one hb, cmd_ok_bind, byteAt_cons_zero, ensure_pos hle,
    cmd_ok_bind]

end

/-- Settles O43: IP4.CHK reads the header length first, and then checks the header's bytes alone. -/
theorem ip4ChkComparesTheHeaderChecksum : Obligations.Ip4ChkComparesTheHeaderChecksum := by
  refine ⟨decode_encode .ip4Chk, fun s => ?_⟩
  have he : exec .ip4Chk s = finish s (withHeaderLength s 0 hl4 fun _ hl => checkBytes s hl inet 10) := exec_ip4Chk s
  refine ⟨withMinInput_fails_of_ilen he, withMinInput_fails_of_short he,
    fun hfit hmin => withHeaderLength_faults hfit hmin he, fun b0 hl hfit hmin hb hhl => ?_⟩
  rw [← hl4_eq_mask] at hhl
  subst hhl
  refine ⟨withHeaderLength_fails_of_short hfit hmin he hb,
    fun hle => checkBytes_faults he (withHeaderLength_eq hfit hmin hb hle), fun a stored z c hle ha hs hlen hold hc => ?_⟩
  rw [hc]
  exact checkBytes_completes he (withHeaderLength_eq hfit hmin hb hle) ha hs hlen hold

end Sys2Proof.Machine
end

section
/-! PROOFS. What an ENC made gives back its fields and its variable bytes: IPv6, TCP, UDP, TLS, DNS and IPv4 (95_test_vectors.md
P1). -/

namespace Sys2Proof.Machine

/-! ### What the ENC commands of fixed header length made -/

/-- The fields of a TLS record header (45_tls_dns.md R211, R212). -/
def tlsFields : Layout := [(0, 1), (1, 2), (2, 2)]

/-- The fields of a DNS header (45_tls_dns.md R215, R216). -/
def dnsFields : Layout := [(0, 2), (1, 2), (2, 2), (3, 2), (4, 2), (5, 2)]

/-- The pseudocode of an ENC that checks the length of its output, with `m` bytes in front of the data, before it reads its whole
input. -/
def encodeSized (s : State) (m : Nat) (out : Nat → Bytes → Bytes) (ws : Nat → Bytes → List (Fin 16 × Word)) : Cmd State :=
  checkIlen s >>= fun n => ensure (m + n ≤ s.bufBytes) .badArg >>= fun _ => readIbuf s 0 n >>= fun d =>
    emit s (out n d) >>= fun t => pure (t.setFs (ws n d))

section
variable {s t : State}

/-- What such an ENC answers: its input is written, and its output fits. -/
theorem encodeInput_inv {u : State} {out : Nat → Bytes → Bytes} {ws : Nat → Bytes → List (Fin 16 × Word)}
    (hbuf : Config.legalBufBytes s.bufBytes) (hu : encodeInput s out ws = .ok u)
    (hd : ∀ n d, ((ws n d).map Prod.fst).Nodup) :
    ∃ d, InputIs s d ∧ Encoded s (u.complete .ok) (out d.length d) (ws d.length d) := by
  obtain ⟨n, hn, hu⟩ := cmd_bind_ok hu
  obtain ⟨d, hread, hu⟩ := cmd_bind_ok hu
  obtain ⟨rfl, hin⟩ := input_inv hn hread
  exact ⟨d, hin, encoded_of_emit hbuf hu rfl rfl (hd _ d)⟩

/-- Behind its check of the length, it is the ENC whose data is the whole input. -/
theorem encodeInput_of_encodeSized {u : State} {m : Nat} {out : Nat → Bytes → Bytes}
    {ws : Nat → Bytes → List (Fin 16 × Word)} (hu : encodeSized s m out ws = .ok u) : encodeInput s out ws = .ok u := by
  obtain ⟨n, hn, hu⟩ := cmd_bind_ok hu
  obtain ⟨_, -, hu⟩ := cmd_bind_ok hu
  rwa [encodeInput, hn, cmd_ok_bind]

theorem encodeInput_encoded {i : Instr} {out : Nat → Bytes → Bytes} {ws : Nat → Bytes → List (Fin 16 × Word)}
    (he : exec i s = finish s (encodeInput s out ws)) (hd : ∀ n d, ((ws n d).map Prod.fst).Nodup) (h : EncodesOk i s t) :
    ∃ d, InputIs s d ∧ Encoded s t (out d.length d) (ws d.length d) := by
  obtain ⟨u, hu, rfl⟩ := h.answers he
  exact encodeInput_inv h.legal hu hd

theorem encodeSized_encoded {i : Instr} {m : Nat} {out : Nat → Bytes → Bytes} {ws : Nat → Bytes → List (Fin 16 × Word)}
    (he : exec i s = finish s (encodeSized s m out ws)) (hd : ∀ n d, ((ws n d).map Prod.fst).Nodup)
    (h : EncodesOk i s t) : ∃ d, InputIs s d ∧ Encoded s t (out d.length d) (ws d.length d) := by
  obtain ⟨u, hu, rfl⟩ := h.answers he
  exact encodeInput_inv h.legal (encodeInput_of_encodeSized hu) hd

theorem exec_tlsEnc (s : State) : exec .tlsEnc s =
    finish s (encodeSized s 5 (fun n d => s.beF 1 0 ++ [0x03, 0x03] ++ be 2 n ++ d)
      fun n _ => [(1, 0x0303), (2, BitVec.ofNat 32 n)] ++ dataSlice 0 n) := rfl

/-- The bytes of a DNS header, one field behind the other. -/
theorem fieldBytes_dnsFields (s : State) : fieldBytes s dnsFields =
    s.beF 2 0 ++ s.beF 2 1 ++ s.beF 2 2 ++ s.beF 2 3 ++ s.beF 2 4 ++ s.beF 2 5 := by
  simp [fieldBytes, dnsFields]

theorem exec_dnsEnc (s : State) : exec .dnsEnc s =
    finish s (encodeSized s 12 (fun _ d => fieldBytes s dnsFields ++ d) fun n _ => dataSlice 0 n) := by
  rw [fieldBytes_dnsFields]
  rfl

theorem exec_tlsDec (s : State) : exec .tlsDec s =
    finish s (decodeHeader s tlsFields fun n => dataSlice (layoutSize tlsFields) (n - layoutSize tlsFields)) := rfl

theorem exec_dnsDec (s : State) : exec .dnsDec s =
    finish s (decodeHeader s dnsFields fun n => dataSlice (layoutSize dnsFields) (n - layoutSize dnsFields)) := rfl

/-! ### IPv6, UDP, TLS and DNS give back their fields and their data -/

/-- A value in a field register is copied as it is, up to the field's bytes. -/
theorem beF_of_ofNat {n v : Nat} {k : Fin 16} (hn : n ≤ 4) (h : t.freg k = BitVec.ofNat 32 v) : t.beF n k = be n v := by
  rw [State.beF, h, BitVec.toNat_ofNat]
  exact be_mod hn v

/-- An ENC that copies its header from registers it leaves, and a DEC of that header. -/
theorem givesBack_of_copied {dec : Instr} {fs : Layout} {d : Bytes}
    (he : ∀ u, exec dec u = finish u (decodeHeader u fs fun n => dataSlice (layoutSize fs) (n - layoutSize fs)))
    (hd : (fs.map Prod.fst ++ [12, 13]).Nodup) (hsize : layoutSize fs < 2 ^ 32) (hin : InputIs s d)
    (henc : Encoded s t (fieldBytes s fs ++ d) (dataSlice 0 d.length)) : GivesBack dec (fieldWidths fs) [(13, 12)] t := by
  have hkeep : ∀ p ∈ fs, t.freg p.1 = s.freg p.1 := by
    intro p hp
    have hnew := (List.nodup_append.1 hd).2.2 p.1 (List.mem_map.2 ⟨p, hp, rfl⟩)
    have h12 : (p.1 == 12) = false := beq_false_of_ne (hnew 12 (by simp))
    have h13 : (p.1 == 13) = false := beq_false_of_ne (hnew 13 (by simp))
    rw [henc.freg, dataSlice, List.lookup_cons, h12, List.lookup_cons, h13]
    rfl
  rw [← fieldBytes_congr hkeep] at henc
  exact givesBack_of_decodeHeader he hd hsize hin henc (henc.freg 12) (henc.freg 13)

theorem ip6Enc_givesBack (h : EncodesOk .ip6Enc s t) : GivesBack .ip6Dec (fieldWidths ip6Fields) [(13, 12)] t := by
  obtain ⟨d, hin, henc⟩ := encodeInput_encoded (exec_ip6Enc s) (by simp [dataSlice]) h
  exact givesBack_of_copied exec_ip6Dec (by decide) (by decide) hin henc

theorem dnsEnc_givesBack (h : EncodesOk .dnsEnc s t) : GivesBack .dnsDec (fieldWidths dnsFields) [(13, 12)] t := by
  obtain ⟨d, hin, henc⟩ := encodeSized_encoded (exec_dnsEnc s) (by simp [dataSlice]) h
  exact givesBack_of_copied exec_dnsDec (by decide) (by decide) hin henc

/-- The version and the length that TLS.ENC writes are in F1 and F2 afterwards (45_tls_dns.md R211). -/
theorem tlsEnc_givesBack (h : EncodesOk .tlsEnc s t) : GivesBack .tlsDec (fieldWidths tlsFields) [(13, 12)] t := by
  obtain ⟨d, hin, henc⟩ := encodeSized_encoded (exec_tlsEnc s) (by simp [dataSlice]) h
  have hout : s.beF 1 0 ++ [0x03, 0x03] ++ be 2 d.length ++ d = fieldBytes t tlsFields ++ d := by
    have htype : t.beF 1 0 = s.beF 1 0 := beF_congr (henc.freg 0) 1
    have hversion : t.beF 2 1 = [0x03, 0x03] := beF_of_ofNat (by decide) (henc.freg 1)
    have hlength : t.beF 2 2 = be 2 d.length := beF_of_ofNat (by decide) (henc.freg 2)
    simp [fieldBytes, tlsFields, htype, hversion, hlength]
  rw [hout] at henc
  exact givesBack_of_decodeHeader exec_tlsDec (by decide) (by decide) hin henc (henc.freg 12) (henc.freg 13)

/-- The length and the checksum that UDP.ENC writes are in F2 and F3 afterwards (44_tcp_udp.md R197). -/
theorem udpEnc_givesBack (h : EncodesOk .udpEnc s t) : GivesBack .udpDec (fieldWidths udpFields) [(13, 12)] t := by
  obtain ⟨d, hin, henc⟩ := udpEnc_encoded h
  have hout : withChecksum (addressedSum s 17 (8 + d.length)) (udpHead s d.length) d = fieldBytes t udpFields ++ d := by
    have hsource : t.beF 2 0 = s.beF 2 0 := beF_congr (henc.freg 0) 2
    have hdest : t.beF 2 1 = s.beF 2 1 := beF_congr (henc.freg 1) 2
    have hlength : t.beF 2 2 = be 2 (8 + d.length) := beF_of_ofNat (by decide) (henc.freg 2)
    have hsum := beF_of_half (n := 2) (henc.freg 3)
    simp [fieldBytes, udpFields, hsource, hdest, hlength, hsum, withChecksum, udpHead]
  rw [hout] at henc
  exact givesBack_of_decodeHeader exec_udpDec (by decide) (by decide) hin henc (henc.freg 12) (henc.freg 13)

end

/-! ### A DEC with options gives back the fields and both slices -/

/-- A register that a DEC writes for a slice. -/
theorem Leaves.slice_freg {t u v : State} {fs : Layout} {ws : List (Fin 16 × Word)}
    (hl : Leaves .ok { regs := truncatedFields t fs ++ ws } u v) {k : Fin 16} (h : k ∉ fs.map Prod.fst) :
    v.freg k = (ws.lookup k).getD (u.freg k) := by
  rw [hl.freg, lookup_truncatedFields_of_notMem h]

section
variable {dec : Instr} {fs : Layout} {hl : Bytes → Nat} {len : Bytes → Nat → Nat} {s t u v : State} {opts data : Bytes}

/-- A DEC with options on a packet whose fixed fields are as in `t`. -/
theorem decodeOptions_received (he : exec dec u = finish u (decodeOptions u fs hl len))
    (hd : (fs.map Prod.fst ++ [10, 11, 12, 13]).Nodup) (hsize : layoutSize fs = 20)
    (hhl : hl (fieldBytes t fs) = 20 + opts.length) (hu : Received t u (fieldBytes t fs ++ (opts ++ data))) :
    Completes dec u { regs := truncatedFields t fs ++ (optionsSlice opts.length 20 ++
      dataSlice (20 + opts.length) (len (fieldBytes t fs) (20 + (opts ++ data).length))) } := by
  obtain ⟨hlen, hfit, hold⟩ := hu.input
  have hfields : (fieldBytes t fs).length = 20 := (fieldBytes_length t fs).trans hsize
  have hn : u.n = 20 + (opts ++ data).length := by rw [hlen, List.length_append, hfields]
  have hheader : HeaderIs u (fieldBytes t fs) := ⟨by omega, hfit, IbufHolds_left hold⟩
  have hle : hl (fieldBytes t fs) ≤ u.n := by
    rw [hhl, hn, List.length_append]
    omega
  have hdone := decodeOptions_completes he hd hfields hheader hle
  have hwords : fieldWords (fieldBytes t fs) 0 fs = truncatedFields t fs := fieldWords_fieldBytes t fs []
  rwa [hwords, hhl, Nat.add_sub_cancel_left, hn, List.append_assoc] at hdone

/-- Options that an ENC took from the front of its input. -/
theorem sliceBack_options {n : Nat} (hin : InputIs s (opts ++ data)) (ht : ∀ a, t.ibuf.read a = s.ibuf.read a)
    (h10 : t.freg 10 = BitVec.ofNat 32 opts.length) (h11 : t.freg 11 = 0) (hv : IbufHolds v 20 opts)
    (hregs : ∀ k ∈ [10, 11, 12, 13], v.freg k =
      ((optionsSlice opts.length 20 ++ dataSlice (20 + opts.length) n).lookup k).getD (u.freg k)) :
    SliceBack 10 11 t v := by
  have hlen : (opts ++ data).length < 2 ^ 16 := hin.1 ▸ s.ilen.isLt
  rw [List.length_append] at hlen
  refine sliceBack_of_holds (d := opts) ((hregs 10 (by simp)).trans h10.symm) ?_ (IbufHolds_congr ht ?_) ?_
  · rw [h10, BitVec.toNat_ofNat, Nat.mod_eq_of_lt (by omega)]
  · rw [h11]
    exact IbufHolds_left hin.2.2
  · rw [hregs 11 (by simp)]
    exact hv

/-- Data that an ENC took from behind the options, where the DEC finds its whole length. -/
theorem sliceBack_data (hin : InputIs s (opts ++ data)) (ht : ∀ a, t.ibuf.read a = s.ibuf.read a)
    (h12 : t.freg 12 = BitVec.ofNat 32 opts.length) (h13 : t.freg 13 = BitVec.ofNat 32 data.length)
    (hv : IbufHolds v (20 + opts.length) data) (hregs : ∀ k ∈ [10, 11, 12, 13], v.freg k =
      ((optionsSlice opts.length 20 ++ dataSlice (20 + opts.length) data.length).lookup k).getD (u.freg k)) :
    SliceBack 13 12 t v := by
  have hlen : (opts ++ data).length < 2 ^ 16 := hin.1 ▸ s.ilen.isLt
  rw [List.length_append] at hlen
  refine sliceBack_of_holds (d := data) ((hregs 13 (by simp)).trans h13.symm) ?_ (IbufHolds_congr ht ?_) ?_
  · rw [h13, BitVec.toNat_ofNat, Nat.mod_eq_of_lt (by omega)]
  · rw [h12, BitVec.toNat_ofNat, Nat.mod_eq_of_lt (by omega), ← Nat.zero_add opts.length]
    exact IbufHolds_right hin.2.2
  · have hoff : v.freg 12 = BitVec.ofNat 32 (20 + opts.length) := hregs 12 (by simp)
    rw [hoff, BitVec.toNat_ofNat, Nat.mod_eq_of_lt (by omega)]
    exact hv

/-- A DEC with options on a packet whose ENC took options and data from its input: it gives back the options, and the data where it
finds the whole length of it. -/
theorem givesBack_of_decodeOptions {slices : List (Fin 16 × Fin 16)} {ws : List (Fin 16 × Word)}
    (he : ∀ u, exec dec u = finish u (decodeOptions u fs hl len)) (hd : (fs.map Prod.fst ++ [10, 11, 12, 13]).Nodup)
    (hsize : layoutSize fs = 20) (hhl : hl (fieldBytes t fs) = 20 + opts.length) (hin : InputIs s (opts ++ data))
    (henc : Encoded s t (fieldBytes t fs ++ (opts ++ data)) ws) (h10 : t.freg 10 = BitVec.ofNat 32 opts.length)
    (h11 : t.freg 11 = 0) (h12 : t.freg 12 = BitVec.ofNat 32 opts.length) (h13 : t.freg 13 = BitVec.ofNat 32 data.length)
    (hslices : ∀ len' off, (len', off) ∈ slices → (len' = 10 ∧ off = 11) ∨
      (len' = 13 ∧ off = 12) ∧ len (fieldBytes t fs) (20 + (opts ++ data).length) = data.length) :
    GivesBack dec (fieldWidths fs) slices t := by
  refine givesBack_of_completes henc hd.of_append_left (fun u hu => decodeOptions_received (he u) hd hsize hhl hu)
    fun u v hu hleaves len' off hslice => ?_
  have hregs : ∀ k ∈ [10, 11, 12, 13], v.freg k = _ := fun k hk =>
    hleaves.slice_freg fun hmem => (List.nodup_append.1 hd).2.2 k hmem k hk rfl
  have hbehind : IbufHolds v 20 (opts ++ data) := by
    have hold := IbufHolds_right hu.input.2.2
    rw [fieldBytes_length, hsize, Nat.zero_add] at hold
    exact IbufHolds_congr hleaves.ibuf hold
  obtain ⟨rfl, rfl⟩ | ⟨⟨rfl, rfl⟩, hlen⟩ := hslices len' off hslice
  · exact sliceBack_options hin henc.leaves.ibuf h10 h11 (IbufHolds_left hbehind) hregs
  · rw [hlen] at hregs
    exact sliceBack_data hin henc.leaves.ibuf h12 h13 (IbufHolds_right hbehind) hregs

end

/-! ### TCP and IPv4 -/

/-- The fields of a TCP header before the options (44_tcp_udp.md R192, R193). -/
def tcpFields : Layout := [(0, 2), (1, 2), (2, 4), (3, 4), (4, 2), (5, 2), (6, 2), (7, 2)]

theorem exec_tcpDec (s : State) : exec .tcpDec s =
    finish s (decodeOptions s tcpFields (fun h => hlt (byteAt h 12)) fun h n => n - hlt (byteAt h 12)) := rfl

theorem ofNat_of_eq_toNat {n : Nat} {v : Word} (h : n = v.toNat) : BitVec.ofNat 32 n = v := by
  rw [h, BitVec.ofNat_toNat, BitVec.setWidth_eq]

/-- The total length in F2 covers the header and ends inside the packet, so that IP4.DEC cuts the data short
(43_icmp_ipv4_ipv6.md R167). -/
abbrev CutShort (s : State) : Prop :=
  20 + (s.freg 10).toNat ≤ (s.freg 2).toNat % 2 ^ 16 ∧ (s.freg 2).toNat % 2 ^ 16 < 20 + s.n

theorem ip4DataLength_of_not_cut {hl tl n : Nat} (h : ¬ (hl ≤ tl ∧ tl < n)) : ip4DataLength hl tl n = n - hl := by
  unfold ip4DataLength
  split <;> omega

section
variable {s t : State}

/-- The offset word and the checksum that TCP.ENC writes are in F4 and F6 afterwards (44_tcp_udp.md R192). -/
theorem tcpEnc_givesBack (h : EncodesOk .tcpEnc s t) :
    GivesBack .tcpDec (fieldWidths tcpFields) [(10, 11), (13, 12)] t := by
  obtain ⟨opts, data, w, olen, hle, hmod, hw, hin, henc⟩ := tcpEnc_encoded h
  have hfields : fieldBytes t tcpFields = tcpHead s w ++ (be 2 (checksumOf (addressedSum s 6 (20 + (opts ++ data).length))
      (tcpHead s w) (tcpTail s (opts ++ data))).toNat ++ s.beF 2 7) := by
    have hkeep : ∀ k ∈ [0, 1, 2, 3, 5, 7], t.freg k = s.freg k := by simp [henc.freg, dataSlice, List.lookup]
    have hcopy : ∀ n, ∀ k ∈ [0, 1, 2, 3, 5, 7], t.beF n k = s.beF n k := fun n k hk => beF_congr (hkeep k hk) n
    have hword : t.beF 2 4 = be 2 w := beF_of_ofNat (by decide) (henc.freg 4)
    have hsum := beF_of_half (n := 2) (henc.freg 6)
    simp [fieldBytes, tcpFields, tcpHead, hcopy, hword, hsum]
  have hhl : hlt (byteAt (fieldBytes t tcpFields) 12) = 20 + opts.length := by
    rw [hfields]
    exact (congrArg (fun w => hlt (BitVec.ofNat 8 (w / 256))) hw).trans (hlt_tcpOffsetFlags _ hle hmod)
  have hout : withChecksum (addressedSum s 6 (20 + (opts ++ data).length)) (tcpHead s w) (tcpTail s (opts ++ data)) =
      fieldBytes t tcpFields ++ (opts ++ data) := by
    rw [hfields]
    simp [withChecksum, tcpTail]
  have h10 : t.freg 10 = BitVec.ofNat 32 opts.length := (henc.freg 10).trans (ofNat_of_eq_toNat olen).symm
  rw [hout] at henc
  refine givesBack_of_decodeOptions exec_tcpDec (by decide) rfl hhl hin henc h10 (henc.freg 11) (henc.freg 12)
    (henc.freg 13) fun len off hslice => ?_
  have hdata : 20 + (opts ++ data).length - (20 + opts.length) = data.length := by
    rw [List.length_append]
    omega
  have hrow : (len = 10 ∧ off = 11) ∨ len = 13 ∧ off = 12 := by simpa using hslice
  exact hrow.imp_right fun h => ⟨h, by rw [hhl, hdata]⟩

/-- The checksum that IP4.ENC writes is in F7 afterwards, and F0 and F2 give IP4.DEC both lengths (43_icmp_ipv4_ipv6.md R166 to
R168). -/
theorem ip4Enc_givesBack {slices : List (Fin 16 × Fin 16)} (hihl : (s.freg 0).toNat % 16 * 4 = 20 + (s.freg 10).toNat)
    (hslices : ∀ len off, (len, off) ∈ slices → (len = 10 ∧ off = 11) ∨ (len = 13 ∧ off = 12) ∧ ¬ CutShort s)
    (h : EncodesOk .ip4Enc s t) : GivesBack .ip4Dec (fieldWidths ip4Fields) slices t := by
  obtain ⟨opts, data, olen, hin, henc⟩ := ip4Enc_encoded h
  have hfields : fieldBytes t ip4Fields = ip4Head s ++ (be 2 (checksumOf inet (ip4Head s) (ip4Tail s opts)).toNat ++
      (s.beF 4 8 ++ s.beF 4 9)) := by
    have hkeep : ∀ k ∈ [0, 1, 2, 3, 4, 5, 6, 8, 9], t.freg k = s.freg k := by
      simp [henc.freg, dataSlice, List.lookup]
    have hcopy : ∀ n, ∀ k ∈ [0, 1, 2, 3, 4, 5, 6, 8, 9], t.beF n k = s.beF n k := fun n k hk => beF_congr (hkeep k hk) n
    have hsum := beF_of_half (n := 2) (henc.freg 7)
    simp [fieldBytes, ip4Fields, ip4Head, hcopy, hsum]
  have hhl : hl4 (byteAt (fieldBytes t ip4Fields) 0) = 20 + opts.length := by
    have hfirst : byteAt (fieldBytes t ip4Fields) 0 = BitVec.ofNat 8 ((s.freg 0).toNat / 256 ^ 0) := by rw [hfields]; rfl
    rw [hfirst, Nat.pow_zero, Nat.div_one, olen]
    exact hl4_of_ihl hihl
  have htl : beVal (seg (fieldBytes t ip4Fields) 2 4) = (s.freg 2).toNat % 2 ^ 16 := by
    have hbytes : seg (fieldBytes t ip4Fields) 2 4 = be 2 (s.freg 2).toNat := by rw [hfields]; rfl
    rw [hbytes]
    exact beVal_be 2 _
  have hout : withChecksum inet (ip4Head s) (ip4Tail s opts) ++ data = fieldBytes t ip4Fields ++ (opts ++ data) := by
    rw [hfields]
    simp [withChecksum, ip4Tail]
  have h10 : t.freg 10 = BitVec.ofNat 32 opts.length := (henc.freg 10).trans (ofNat_of_eq_toNat olen).symm
  rw [hout] at henc
  refine givesBack_of_decodeOptions exec_ip4Dec (by decide) rfl hhl hin henc h10 (henc.freg 11) (henc.freg 12)
    (henc.freg 13) fun len off hslice => (hslices len off hslice).imp_right (And.imp_right fun hcut => ?_)
  rw [CutShort, ← olen, hin.1] at hcut
  rw [hhl, htl, ip4DataLength_of_not_cut hcut, List.length_append]
  omega

end

/-- Settles O58: each ENC's packet is the header that its registers hold, TCP's options, and the data. -/
theorem decodingGivesBackIp6TcpUdpTlsDnsFields : Obligations.DecodingGivesBackIp6TcpUdpTlsDnsFields := by
  intro enc dec fields slices s t hrow hbuf hbusy hnext hidle hok
  have hrun : EncodesOk enc s t := ⟨hbuf, hbusy, hnext, hidle, hok⟩
  simp only [List.mem_cons, Prod.mk.injEq, List.not_mem_nil, or_false] at hrow
  obtain ⟨rfl, rfl, rfl, rfl⟩ | ⟨rfl, rfl, rfl, rfl⟩ | ⟨rfl, rfl, rfl, rfl⟩ | ⟨rfl, rfl, rfl, rfl⟩ |
    ⟨rfl, rfl, rfl, rfl⟩ := hrow
  · exact ip6Enc_givesBack hrun
  · exact tcpEnc_givesBack hrun
  · exact udpEnc_givesBack hrun
  · exact tlsEnc_givesBack hrun
  · exact dnsEnc_givesBack hrun

/-- Settles O59: IP4.DEC gives back the options always, and the data where the total length does not cut it short. -/
theorem decodingGivesBackIp4Fields : Obligations.DecodingGivesBackIp4Fields := by
  intro s t hihl hbuf hbusy hnext hidle hok
  have hback := ip4Enc_givesBack (slices := (10, 11) :: if CutShort s then [] else [(13, 12)]) hihl
    (fun len off hslice => ?_) ⟨hbuf, hbusy, hnext, hidle, hok⟩
  · obtain ⟨u, v, hu, hv, hdone, herr, hfields, hslices⟩ := hback
    exact ⟨u, v, hu, hv, hdone, herr, hfields, hslices 10 11 List.mem_cons_self,
      fun hcut => hslices 13 12 (by rw [if_neg hcut]; simp)⟩
  · by_cases hcut : CutShort s
    · rw [if_pos hcut] at hslice
      exact .inl (by simpa using hslice)
    · rw [if_neg hcut] at hslice
      exact Or.imp_right (⟨·, hcut⟩) (by simpa using hslice)

end Sys2Proof.Machine
end

section
/-! PROOFS. The TCP and UDP commands (44_tcp_udp.md R191 to R200), and the shape of an ENC that checks the length of its output
before it reads. -/

namespace Sys2Proof.Machine

/-! ### The checksum with a pseudo-header (40_checksum_engine.md R103, R104, 44_tcp_udp.md R190) -/

/-- The checksum over the addresses in F8 and F9, the protocol `p`, the length `n`, and a packet with zeros in its place. -/
theorem checksumOf_addressedSum (s : State) (p : Byte) (n : Nat) (a z : Bytes) :
    checksumOf (addressedSum s p.toNat n) a z =
      inet (s.beF 4 8 ++ s.beF 4 9 ++ [0, p] ++ be 2 n ++ (a ++ [0, 0] ++ z)) := by
  have hproto : be 1 p.toNat = [p] := by simp [be]
  simp [checksumOf, addressedSum, inetph, pseudo, hproto, State.beF, zeros, List.replicate]

/-! ### TCP.VAL and UDP.VAL (R194, R199) -/

theorem field_bne_zero (s : State) (w : Nat) (k : Fin 16) :
    (s.field w k != 0) = decide ((s.freg k).toNat % 2 ^ w ≠ 0) := by
  rw [decide_not, ← Bool.beq_eq_decide_eq]
  rfl

/-- Settles O48: each VAL sets RESULT to its predicate of the truncated fields. -/
theorem tcpAndUdpValGiveTheirPredicates : Obligations.TcpAndUdpValGiveTheirPredicates := by
  refine ⟨decode_encode .tcpVal, decode_encode .udpVal, fun s => ⟨?_, ?_⟩⟩
  · refine completes_of_setResult (i := .tcpVal) rfl ?_
    rw [field_bne_zero, field_bne_zero, Bool.decide_and]
  · refine completes_of_setResult (i := .udpVal) rfl ?_
    rw [field_bne_zero, field_bne_zero, Bool.decide_and, Bool.decide_and, Bool.and_assoc]
    rfl

/-! ### UDP.CHK (R200) -/

/-- Settles O51: UDP.CHK compares the checksum, with the pseudo-header of protocol 17, of its whole input. -/
theorem udpChkComparesTheChecksum : Obligations.UdpChkComparesTheChecksum := by
  refine ⟨decode_encode .udpChk, fun s => ?_⟩
  obtain ⟨hilen, hshort, hfault, hdone⟩ := checkInput_ends (exec_udpChk s)
  refine ⟨hilen, hshort, hfault, fun a stored z c ha hs hmin h hc => ?_⟩
  rw [← checksumOf_addressedSum s 17] at hc
  subst hc
  exact hdone a stored z ha hs hmin h

/-! ### TCP.DEC and TCP.CHK (R191, R193, R195) -/

/-- The header length from the high 4 bits of byte 12 (R191). -/
theorem hlt_eq_shift (b : Byte) : hlt b = max 20 ((b.toNat >>> 4) * 4) := by
  rw [hlt, Nat.shiftRight_eq_div_pow]

/-- Settles O47: TCP.DEC is the DEC with options of `tcpFields`, with the header length of R191 and the rest of the input as
data. -/
theorem tcpDecGivesTheFields : Obligations.TcpDecGivesTheFields := by
  refine ⟨decode_encode .tcpDec, fun s => ?_⟩
  obtain ⟨hilen, hshort, hfault, hends⟩ := decodeOptions_ends (exec_tcpDec s) (by decide)
  refine ⟨hilen, hshort, hfault, fun h hl hlen hh hhl => ?_⟩
  rw [← hlt_eq_shift] at hhl
  subst hhl
  exact hends h hlen hh

/-- Settles O49: TCP.CHK reads the header length first, and then checks its whole input, with the pseudo-header of protocol 6. -/
theorem tcpChkComparesTheChecksum : Obligations.TcpChkComparesTheChecksum := by
  refine ⟨decode_encode .tcpChk, fun s => ?_⟩
  have he : exec .tcpChk s =
      finish s (withHeaderLength s 12 hlt fun n _ => checkBytes s n (addressedSum s 6 n) 16) := exec_tcpChk s
  refine ⟨withMinInput_fails_of_ilen he, withMinInput_fails_of_short he,
    fun hfit hmin => withHeaderLength_faults hfit hmin he, fun b12 hl hfit hmin hb hhl => ?_⟩
  rw [← hlt_eq_shift] at hhl
  subst hhl
  refine ⟨withHeaderLength_fails_of_short hfit hmin he hb,
    fun hle => checkBytes_faults he (withHeaderLength_eq hfit hmin hb hle), fun a stored z c hle ha hs h hc => ?_⟩
  obtain ⟨hlen, -, hold⟩ := h
  rw [← checksumOf_addressedSum s 6] at hc
  subst hc
  exact checkBytes_completes he (withHeaderLength_eq hfit hmin hb hle) ha hs hlen.symm hold

/-! ### An ENC that checks the length of its output before it reads (R197, 45_tls_dns.md R211, R215) -/

section
variable {i : Instr} {s : State} {m : Nat} {out out' : Nat → Bytes → Bytes} {ws ws' : Nat → Bytes → List (Fin 16 × Word)}

/-- An output that does not fit is BadArg before any read, whichever of the two checks finds it. -/
theorem encodeSized_badArg (h : s.bufBytes < m + s.n) : encodeSized s m out ws = .error (.raise .badArg) := by
  by_cases hfit : s.n ≤ s.bufBytes
  · rw [encodeSized, checkIlen_ok hfit, cmd_ok_bind, ensure_neg (Nat.not_le.2 h), cmd_error_bind]
  · rw [encodeSized, checkIlen_badArg (Nat.not_le.1 hfit), cmd_error_bind]

/-- With an output that fits, it is the ENC whose data is the whole input. -/
theorem encodeSized_eq_encodeInput (h : m + s.n ≤ s.bufBytes) : encodeSized s m out ws = encodeInput s out ws := by
  have hfit : s.n ≤ s.bufBytes := (Nat.le_add_left s.n m).trans h
  rw [encodeSized, encodeInput, checkIlen_ok hfit, cmd_ok_bind, ensure_pos h, cmd_ok_bind, cmd_ok_bind]

/-- What such an ENC emits and writes matters only where `n` is the length of the data. -/
theorem encodeSized_congr (hout : ∀ d, out d.length d = out' d.length d) (hws : ∀ d, ws d.length d = ws' d.length d) :
    encodeSized s m out ws = encodeSized s m out' ws' := by
  by_cases h : m + s.n ≤ s.bufBytes
  · rw [encodeSized_eq_encodeInput h, encodeSized_eq_encodeInput h, encodeInput_congr hout hws]
  · rw [encodeSized_badArg (Nat.not_le.1 h), encodeSized_badArg (Nat.not_le.1 h)]

/-- The ends of an ENC with `m` bytes in front of the data, whose output is checked first: BadArg, the stop at the first unwritten
input byte, and the output with the register writes. -/
theorem encodeSized_ends (he : exec i s = finish s (encodeSized s m out ws))
    (hlen : ∀ d, (out d.length d).length = m + d.length) (hd : ∀ n d, ((ws n d).map Prod.fst).Nodup) :
    (s.bufBytes < m + s.n → Fails i s .badArg) ∧
    (m + s.n ≤ s.bufBytes → FaultsWithin i s 0 s.n ∧
      ∀ d, InputIs s d → Completes i s { out := some (out s.n d), regs := ws s.n d }) := by
  refine ⟨fun hbig => fails_of_raise he (encodeSized_badArg hbig), fun fits => ?_⟩
  obtain ⟨-, hfault, hends⟩ := encodeInput_ends (he.trans (congrArg _ (encodeSized_eq_encodeInput fits))) hlen hd
  exact ⟨hfault ((Nat.le_add_left s.n m).trans fits), fun d h => (hends d h).2 fits⟩

end

/-! ### UDP.ENC (R197) -/

/-- UDP.ENC emits the datagram that carries its own checksum. -/
theorem exec_udpEnc (s : State) : exec .udpEnc s =
    finish s (encodeSized s 8 (fun n d => withChecksum (addressedSum s 17 (8 + n)) (udpHead s n) d) fun n d =>
      [(2, BitVec.ofNat 32 (8 + n)), (3, (checksumOf (addressedSum s 17 (8 + n)) (udpHead s n) d).setWidth 32)] ++
        dataSlice 0 n) := by
  refine Eq.trans rfl (congrArg (finish s) (encodeSized_congr (fun d => ?_) fun d => rfl))
  exact patch_eq_withChecksum (addressedSum s 17 _) rfl (udpHead_length s _) (by simp) (by simp)

/-- Settles O50: UDP.ENC is the ENC of a datagram with its own checksum, 8 bytes longer than its input. -/
theorem udpEncBuildsTheDatagram : Obligations.UdpEncBuildsTheDatagram := by
  refine ⟨decode_encode .udpEnc, fun s => ?_⟩
  obtain ⟨hbig, hends⟩ := encodeSized_ends (exec_udpEnc s) (fun d => by simp) (by simp [dataSlice])
  refine ⟨hbig, fun fits => ?_⟩
  obtain ⟨hfault, hdone⟩ := hends fits
  refine ⟨hfault, fun d c h hc => ?_⟩
  have hsum : checksumOf (addressedSum s 17 (8 + s.n)) (udpHead s s.n) d = c :=
    (checksumOf_addressedSum s 17 _ _ d).trans hc.symm
  have hd := hdone d h
  rw [withChecksum, hsum] at hd
  exact hd

/-! ### TCP.ENC (R192) -/

/-- The offset word by shift and mask (R192). -/
theorem tcpOffsetFlags_eq_shift (o : Nat) (f4 : Word) :
    tcpOffsetFlags o f4 = ((5 + o / 4) <<< 12 ||| (f4.toNat &&& 0x1FF)) := by
  rw [tcpOffsetFlags, Nat.shiftLeft_eq, ← Nat.and_two_pow_sub_one_eq_mod f4.toNat 9]

/-- The registers TCP.ENC writes on an input of `n` bytes: the offset word `w`, the checksum `c`, and both slices. -/
def tcpEncRegs (s : State) (w n : Nat) (c : Half) : List (Fin 16 × Word) :=
  [(4, BitVec.ofNat 32 w), (6, c.setWidth 32), (11, 0)] ++ dataSlice (s.freg 10).toNat (n - (s.freg 10).toNat)

/-- What TCP.ENC does with the input it read, `p` being the segment with zeros in the checksum's place. -/
def tcpEncPatch (s : State) (w n : Nat) (p : Bytes) : Cmd State :=
  emit s (seg p 0 16 ++ be 2 (addressedSum s 6 (20 + n) p).toNat ++ seg p 18 (20 + n)) >>= fun t =>
    pure (t.setFs (tcpEncRegs s w n (addressedSum s 6 (20 + n) p)))

theorem exec_tcpEnc {s : State} {w : Nat} (hw : w = tcpOffsetFlags (s.freg 10).toNat (s.freg 4)) :
    exec .tcpEnc s = finish s (readOptionsAndData s fun n opts data =>
      tcpEncPatch s w n (tcpHead s w ++ zeros 2 ++ s.beF 2 7 ++ opts ++ data)) := by
  subst hw
  rfl

/-- TCP.ENC emits the segment that carries its own checksum. -/
theorem tcpEncPatch_eq (s : State) (w : Nat) {n : Nat} {opts data : Bytes} (hn : n = (opts ++ data).length) :
    tcpEncPatch s w n (tcpHead s w ++ zeros 2 ++ s.beF 2 7 ++ opts ++ data) =
      emit s (withChecksum (addressedSum s 6 (20 + n)) (tcpHead s w) (tcpTail s (opts ++ data))) >>= fun t =>
        pure (t.setFs (tcpEncRegs s w n
          (checksumOf (addressedSum s 6 (20 + n)) (tcpHead s w) (tcpTail s (opts ++ data))))) := by
  have hsegment : tcpHead s w ++ zeros 2 ++ s.beF 2 7 ++ opts ++ data =
      tcpHead s w ++ zeros 2 ++ tcpTail s (opts ++ data) := by simp [tcpTail]
  rw [hsegment, tcpEncPatch, patch_eq_withChecksum (addressedSum s 6 (20 + n)) rfl (tcpHead_length s w) (by simp)
    (by simp [hn]; omega)]
  rfl

theorem tcpEnc_completes {s : State} {w : Nat} {opts data : Bytes}
    (hopt : (s.freg 10).toNat ≤ 40 ∧ (s.freg 10).toNat % 4 = 0 ∧ (s.freg 10).toNat ≤ s.n) (hlen : 20 + s.n ≤ s.bufBytes)
    (hw : w = tcpOffsetFlags (s.freg 10).toNat (s.freg 4)) (olen : opts.length = (s.freg 10).toNat)
    (h : InputIs s (opts ++ data)) : Completes .tcpEnc s {
      out := some (withChecksum (addressedSum s 6 (20 + s.n)) (tcpHead s w) (tcpTail s (opts ++ data)))
      regs := tcpEncRegs s w s.n
        (checksumOf (addressedSum s 6 (20 + s.n)) (tcpHead s w) (tcpTail s (opts ++ data))) } := by
  have hn : s.n = (opts ++ data).length := h.1
  refine completes_of_emit (exec_tcpEnc hw) ((readOptionsAndData_eq hopt hlen olen h).trans (tcpEncPatch_eq s w hn)) ?_
    (by simp [tcpEncRegs, dataSlice])
  rw [withChecksum_length, tcpHead_length, tcpTail_length]
  omega

/-- The TCP segment with the two bytes `c` in the checksum's place, field by field (R192). -/
theorem tcpSegment_eq (s : State) (w : Nat) (c d : Bytes) : tcpHead s w ++ c ++ tcpTail s d =
    s.beF 2 0 ++ s.beF 2 1 ++ s.beF 4 2 ++ s.beF 4 3 ++ be 2 w ++ s.beF 2 5 ++ c ++ s.beF 2 7 ++ d := by
  simp [tcpHead, tcpTail]

/-- Settles O46: the checks, the reads, and the segment, each by its own lemma. -/
theorem tcpEncBuildsTheSegment : Obligations.TcpEncBuildsTheSegment := by
  refine ⟨decode_encode .tcpEnc, fun s o w ho hw => ?_⟩
  rw [← tcpOffsetFlags_eq_shift] at hw
  subst ho
  refine ⟨fun h => readOptionsAndData_fails (exec_tcpEnc hw) (by omega), fun hle hmod hin hlen => ?_⟩
  have hopt := And.intro hle (And.intro hmod hin)
  refine ⟨readOptionsAndData_faults hopt hlen (exec_tcpEnc hw), fun d c h hc => ?_⟩
  have hsum : checksumOf (addressedSum s 6 (20 + s.n)) (tcpHead s w) (tcpTail s d) = c := by
    rw [hc, ← tcpSegment_eq]
    exact checksumOf_addressedSum s 6 (20 + s.n) (tcpHead s w) (tcpTail s d)
  obtain ⟨opts, data, rfl, olen⟩ : ∃ opts data, opts ++ data = d ∧ opts.length = (s.freg 10).toNat :=
    ⟨_, _, List.take_append_drop _ d, List.length_take_of_le (hin.trans h.1.le)⟩
  have hdone := tcpEnc_completes hopt hlen hw olen h
  rw [withChecksum, hsum, tcpSegment_eq] at hdone
  exact hdone

end Sys2Proof.Machine
end

section
/-! PROOFS. The TLS and DNS commands (45_tls_dns.md R211 to R217). -/

namespace Sys2Proof.Machine

/-! ### TLS.ENC and DNS.ENC (R211, R215) -/

/-- Settles O52: both check the length of the output first; TLS.ENC puts its own version and length behind the type, DNS.ENC the
header `dnsFields`, in front of the whole input. -/
theorem tlsAndDnsEncBuildTheMessage : Obligations.TlsAndDnsEncBuildTheMessage := by
  refine ⟨decode_encode .tlsEnc, decode_encode .dnsEnc, fun s => ?_⟩
  have hdnsSize : layoutSize dnsFields = 12 := rfl
  obtain ⟨tlsBig, tlsEnds⟩ := encodeSized_ends (exec_tlsEnc s) (fun d => by simp; omega) (by simp [dataSlice])
  obtain ⟨dnsBig, dnsEnds⟩ := encodeSized_ends (exec_dnsEnc s) (fun d => by simp [hdnsSize]) (by simp [dataSlice])
  rw [fieldBytes_dnsFields] at dnsEnds
  exact ⟨tlsBig, tlsEnds, dnsBig, dnsEnds⟩

/-! ### TLS.DEC and DNS.DEC (R212, R216) -/

/-- Settles O53: each reads one header, `tlsFields` or `dnsFields`, and its slice is the rest of the input. -/
theorem tlsAndDnsDecGiveTheFields : Obligations.TlsAndDnsDecGiveTheFields := by
  refine ⟨decode_encode .tlsDec, decode_encode .dnsDec, fun s => ?_⟩
  obtain ⟨tlsIlen, tlsShort, tlsFault, tlsDone⟩ := decodeHeader_ends (exec_tlsDec s) (by simp [tlsFields, dataSlice])
  obtain ⟨dnsIlen, dnsShort, dnsFault, dnsDone⟩ := decodeHeader_ends (exec_dnsDec s) (by simp [dnsFields, dataSlice])
  exact ⟨fun h => ⟨tlsIlen h, dnsIlen h⟩, tlsShort, tlsFault, tlsDone, dnsShort, dnsFault, dnsDone⟩

/-! ### TLS.VAL and DNS.VAL (R213, R217) -/

/-- Settles O54: TLS.VAL compares the truncated length with the whole of F13; DNS.VAL is true where one of the truncated counts is
nonzero. -/
theorem tlsAndDnsValGiveTheirPredicates : Obligations.TlsAndDnsValGiveTheirPredicates := by
  refine ⟨decode_encode .tlsVal, decode_encode .dnsVal, fun s => ⟨?_, ?_⟩⟩
  · refine completes_of_setResult (i := .tlsVal) rfl ?_
    rw [Bool.beq_eq_decide_eq, Bool.beq_eq_decide_eq, ← Bool.decide_and]
    rfl
  · refine completes_of_setResult (i := .dnsVal) rfl ?_
    simp only [field_bne_zero, Bool.decide_or, Bool.or_assoc]

end Sys2Proof.Machine
end

section
/-! PROOFS. XFER (46_control.md R230). -/

namespace Sys2Proof.Machine

theorem exec_xfer (s : State) : exec .xfer s = finish s (readObuf s 0 s.olen.toNat >>= fun d =>
    pure { s with ibuf := s.ibuf.writeSeq 0 d, ilen := s.olen }) := rfl

/-- XFER never meets an unwritten byte: the output is written below OLEN (R230, 60_exceptions.md R244). -/
theorem Inv.readObuf_output {s : State} (h : Inv s) : ∃ d, readObuf s 0 s.olen.toNat = .ok d := by
  match hr : readObuf s 0 s.olen.toNat with
  | .ok d => exact ⟨d, rfl⟩
  | .error _ =>
    obtain ⟨k, -, hk, hnone, -, -⟩ := memRead_error hr
    rw [Nat.zero_add] at hk
    exact absurd hnone (h.obuf_written k hk)

/-- The input after a write of what MemRead answered of the output: the output's bytes, and behind them the old input. -/
theorem read_writeSeq_readObuf {s : State} {n : Nat} {d : Bytes} (h : readObuf s 0 n = .ok d) (a : Nat) :
    (s.ibuf.writeSeq 0 d).read a = if a < n then s.obuf.read a else s.ibuf.read a := by
  obtain ⟨hlen, hread⟩ := memRead_inv h
  rw [Memory.read_writeSeq_zero, hlen]
  split
  · next ha => rw [← hread a ha, Nat.zero_add]
  · rfl

/-- Settles O55: the invariant lets the read of the output succeed, and the one write that follows is of IBUF and ILEN. -/
theorem xferCopiesTheOutputToTheInput : Obligations.XferCopiesTheOutputToTheInput := by
  refine ⟨decode_encode .xfer, fun s h => ?_⟩
  obtain ⟨d, hread⟩ := h.readObuf_output
  have hrun := exec_xfer s
  rw [hread, cmd_ok_bind, cmd_pure, finish_ok] at hrun
  exact ⟨_, hrun, rfl, read_writeSeq_readObuf hread, leaves_complete _ .ok⟩

end Sys2Proof.Machine
end

section
/-! PROOFS. The ends of a command and the stopped engine (60_exceptions.md R240, R241, R244), several blocks (R252), reset
(70_reset_and_hazards.md R260), and the accesses inside the busy window (R262). -/

namespace Sys2Proof.Machine

/-! ### The ends of a command (60_exceptions.md R240, R241) -/

/-- Settles O12: every command is pseudocode under `finish`, whose three ends are two completions and the engine fault. -/
theorem everyCommandCompletesOrEngineFaults : Obligations.EveryCommandCompletesOrEngineFaults := by
  intro i s
  obtain ⟨r, hrun, -⟩ := exec_eq_finish i s
  obtain ⟨t, hnext⟩ := finish_next s r
  refine ⟨t, hrun.trans hnext, ?_⟩
  obtain ⟨u, -, rfl⟩ | ⟨e, -, rfl⟩ | ⟨b, -, rfl⟩ := finish_cases hnext
  · exact .inl ⟨rfl, rfl, by simp⟩
  · exact .inl ⟨rfl, rfl, by simp⟩
  · exact .inr ⟨b, rfl⟩

/-- Settles O13: of the three ends, OK is no error, and the engine fault leaves BUSY. -/
theorem errorCompletionWritesStatusAlone : Obligations.ErrorCompletionWritesStatusAlone := by
  intro i s t hb h hidle herr
  obtain ⟨u, -, rfl⟩ | ⟨e, rfl⟩ | ⟨b, rfl⟩ := exec_cases h
  · exact absurd rfl herr
  · exact leaves_complete s (errorCode e)
  · simp [hb] at hidle

/-! ### The stopped engine (60_exceptions.md R244) -/

section
variable (s : State) (off : Nat) (w : Width)

@[simp] theorem hostRead_stuckAt : (hostRead s off w).stuckAt = s.stuckAt := by rw [hostRead_eq]

@[simp] theorem hostIbufWrite_stuckAt (i : Nat) (v : Word) : (hostIbufWrite s w i v).stuckAt = s.stuckAt := by
  rw [hostIbufWrite_eq]

@[simp] theorem hostWait_stuckAt : (hostWait s).stuckAt = s.stuckAt := by rw [hostWait_eq]

@[simp] theorem hostWrite_stuckAt (v : Word) : (hostWrite s off w v).stuckAt = s.stuckAt := by
  obtain ⟨-, hc⟩ | ⟨-, hc⟩ | ⟨k, -, hc⟩ | ⟨i, -, hc⟩ | hc := hostWrite_cases s off w v <;> simp [hc]

@[simp] theorem hazardViolation_stuckAt (op : AccessOp) : (hazardViolation s off w op).stuckAt = s.stuckAt := by
  obtain ⟨-, hc⟩ | ⟨-, -, v, -, hc⟩ := hazardViolation_cases s off w op
  · rw [hc]
  · rw [hc, State.startCommand_stuckAt]

end

/-- No host access touches the record of a stop. -/
theorem hostAccess_stuckAt {off : Nat} {w : Width} {op : AccessOp} {s t : State} (h : hostAccess off w op s = .next t) :
    t.stuckAt = s.stuckAt := by
  obtain ⟨-, -, ⟨-, -, rfl⟩ | ⟨-, ⟨-, rfl⟩ | ⟨v, -, rfl⟩⟩⟩ := hostAccess_cases h
  · exact hazardViolation_stuckAt s off w op
  · exact hostRead_stuckAt s off w
  · exact hostWrite_stuckAt s off w v

/-- A stopped engine has no further step. -/
theorem engineStep_stopped {s : State} {r : ByteRef} (h : s.stuckAt = some r) : engineStep s = .next s := by
  simp [engineStep, h]

theorem takeTurn_stopped {base : Nat} {turn : Turn} {s t : State} {r : ByteRef} (h : s.stuckAt = some r)
    (hnot : turn ≠ .reset) (ht : takeTurn base turn s = .next t) : t.stuckAt = some r := by
  cases turn with
  | access off w op => exact (hostAccess_stuckAt ht).trans h
  | bus address w op => exact (hostAccess_stuckAt (busAccess_next ht).2).trans h
  | wait => cases ht; exact (hostWait_stuckAt s).trans h
  | engine =>
    rw [takeTurn, engineStep_stopped h] at ht
    cases ht
    exact h
  | reset => exact absurd rfl hnot

/-- Of all turns only reset clears the record of a stop. -/
theorem step_stopped {s t : State} {r : ByteRef} (h : s.stuckAt = some r) (hnot : ∀ rest, s.agenda ≠ .reset :: rest)
    (ht : step s = .next t) : t.stuckAt = some r := by
  obtain ⟨-, hengine⟩ | ⟨turn, rest, ha, hturn⟩ := step_cases ht
  · rw [engineStep_stopped h] at hengine
    cases hengine
    exact h
  · refine takeTurn_stopped (s := { s with agenda := rest }) h ?_ hturn
    rintro rfl
    exact hnot rest ha

/-- Settles O10: the record stays, and the invariant, which the step keeps, says what the record means: busy, so not done, and
FAULT set. -/
theorem stoppedEngineStaysBusyUntilReset : Obligations.StoppedEngineStaysBusyUntilReset := by
  intro s t r hinv h hnot ht
  have hstuck : t.stuckAt = some r := step_stopped h hnot ht
  have hinv' : Inv t := stepKeepsTheInvariant s t hinv ht
  obtain ⟨hbusy, hfault⟩ := hinv'.stuck_busy (by simp [hstuck])
  have hdone : t.done = false := Bool.eq_false_iff.2 fun hd => hinv'.not_busy_done ⟨hbusy, hd⟩
  exact ⟨hstuck, hbusy, hdone, hfault⟩

/-! ### Several blocks (60_exceptions.md R252) -/

/-- A step of block `k` that gives a next state is a step of the product, in the place of block `k`. -/
theorem systemStep_next {blocks : System} {k : Nat} {s t : State} (hk : blocks[k]? = some s)
    (ht : stepAt (Config.blockBase k) s = .next t) : systemStep blocks k = .next (blocks.set k t) := by
  simp [systemStep, hk, ht]

/-- A bus address at or above the base is the access at its offset from it (00_scope.md R5, 20_memory.md R51). -/
theorem busAccess_base_add (base off : Nat) (w : Width) (op : AccessOp) (s : State) :
    busAccess base (base + off) w op s = hostAccess off w op s := by
  rw [busAccess, if_neg (by omega), Nat.add_sub_cancel_left]

/-- Settles O15: the product's step is block `k`'s step written back at place `k`, and at a bus address the block sees the offset
from its own base alone. -/
theorem blocksShareNoState : Obligations.BlocksShareNoState := by
  refine ⟨fun j k hne heq => hne (blockBase_injective heq), fun s => rfl, fun blocks k s hk => ?_⟩
  obtain ⟨hlt, -⟩ := List.getElem?_eq_some_iff.1 hk
  refine ⟨fun t ht => ?_, fun blocks' hstep => ?_, fun off w op rest ha => ?_⟩
  · exact ⟨blocks.set k t, systemStep_next hk ht, List.length_set, List.getElem?_set_self hlt,
      fun j hj => List.getElem?_set_ne (Ne.symm hj)⟩
  · obtain ⟨hnone, -⟩ | ⟨s', t, hk', ht, rfl⟩ := systemStep_cases hstep
    · simp [hk] at hnone
    · obtain rfl : s = s' := Option.some.inj (hk.symm.trans hk')
      exact ⟨t, ht, List.getElem?_set_self hlt⟩
  · simp only [stepAt, ha, takeTurn, busAccess_base_add]

/-! ### Reset (70_reset_and_hazards.md R260) -/

/-- Settles O6: at reset the buffers are empty, the block is idle and its engine not stopped, and BUF_BYTES has its default. -/
theorem resetMeetsTheInvariant : Obligations.ResetMeetsTheInvariant where
  bufsz_legal := by decide
  rom := rfl
  ibuf_wf := .nil
  ibuf_within := by simp [State.reset]
  obuf_wf := .nil
  obuf_within := by simp [State.reset]
  olen_le := Nat.zero_le _
  obuf_written := fun a ha => absurd ha (Nat.not_lt_zero a)
  not_busy_done := by simp [State.reset]
  err_ok := fun _ => rfl
  err_legal := by simp [State.reset]
  busy_window := by simp [State.reset]
  stuck_busy := by simp [State.reset]
  idle_fresh := fun _ _ => ⟨rfl, rfl, rfl, rfl, rfl, rfl⟩

/-- The state at the beginning is one that the reset input leaves. -/
theorem blockReset_reset : State.reset.blockReset = State.reset := rfl

@[simp] theorem State.statusWord_blockReset (s : State) : s.blockReset.statusWord = 0 := by
  simp [State.statusWord, codeBits]

@[simp] theorem State.resultWord_blockReset (s : State) : s.blockReset.resultWord = 0 := rfl

theorem step_reset {s : State} {rest : List Turn} (ha : s.agenda = .reset :: rest) :
    step s = .next ({ s with agenda := rest } : State).blockReset := step_cons ha

/-- Settles O7: what a reset leaves is read off field by field, at the beginning and after a turn; being idle, the block then starts
the command of a CMD write. -/
theorem resetLeavesTheResetState : Obligations.ResetLeavesTheResetState := by
  refine ⟨?beginning, fun s rest ha => ⟨_, step_reset ha, ?turn⟩, fun s v rest ha => ?write⟩
  case beginning =>
    rw [← blockReset_reset]
    simp [State.reset]
  case turn => simp
  case write =>
    exact ⟨_, (run_succ (M := core) (step_reset ha) 1).trans
      (run_succ (M := core) (cmdWriteStartsACommand _ v rest rfl rfl) 0), rfl, rfl, rfl, rfl⟩

/-! ### Accesses inside the busy window (70_reset_and_hazards.md R262) -/

/-- STATUS and BUFSZ are the words at 0x4 and 0x18 (20_memory.md R51). -/
theorem off_of_target_polled {off : Nat} (hmod : off % 4 = 0) (h : target off = .status ∨ target off = .bufsz) :
    off = 0x4 ∨ off = 0x18 := by
  by_cases hlow : off < 0x40
  · rw [target, if_pos hlow] at h
    split at h
    case h_2 | h_7 => omega
    all_goals simp at h
  · rw [target, if_neg hlow] at h
    repeat' split at h
    all_goals simp at h

/-- Of the accesses with a meaning, those the busy window allows are the two 32-bit reads of R262. -/
theorem allowedInWindow_iff {off : Nat} {w : Width} {op : AccessOp} (hm : meaningful off w = true) :
    allowedInWindow off w op = true ↔ w = .word ∧ op = .read ∧ (off = 0x4 ∨ off = 0x18) := by
  simp only [allowedInWindow, Bool.and_eq_true, Bool.or_eq_true, beq_iff_eq, and_assoc]
  refine and_congr_right fun hw => and_congr_right fun _ => ⟨fun ht => ?_, ?_⟩
  · subst hw
    exact off_of_target_polled (by simpa [meaningful] using hm) ht
  · rintro (rfl | rfl)
    · exact .inl rfl
    · exact .inr rfl

/-- The two reads that the busy window allows are served whether it is open or not. -/
theorem hostAccess_allowed {s : State} {off : Nat} (hoff : off = 0x4 ∨ off = 0x18) :
    hostAccess off .word .read s = .next (hostRead s off .word) := by
  have hm : meaningful off .word = true := meaningful_word (by omega)
  have hallow : allowedInWindow off .word .read = true := (allowedInWindow_iff hm).2 ⟨rfl, rfl, hoff⟩
  rw [hostAccess, if_neg (by rw [addressSpaceEnd]; omega), if_neg (by simp [hm]), if_neg (by simp [hallow])]

/-- A violating write returns no value and draws none. -/
theorem hazardViolation_write (s : State) (off : Nat) (w : Width) (v : Word) :
    (hazardViolation s off w (.write v)).readData = s.readData ∧ (hazardViolation s off w (.write v)).draws = s.draws := by
  simp only [hazardViolation, unpolledCmdWrite]
  split <;> exact ⟨rfl, rfl⟩

/-- The frame of a violation that is not the CMD write with BUSY = 0 (log 9): FAULT, the value returned and the draw counter. -/
theorem hazardViolation_frame {s : State} {off : Nat} {w : Width} {op : AccessOp} (hm : meaningful off w = true)
    (h : s.busy = true ∨ off ≠ 0 ∨ op = .read) : hazardViolation s off w op = { s with
      fault := true, readData := (hazardViolation s off w op).readData, draws := (hazardViolation s off w op).draws } := by
  obtain ⟨-, hc⟩ | ⟨hcmd, hidle, v, rfl, -⟩ := hazardViolation_cases s off w op
  · exact hc
  · obtain ⟨rfl, -⟩ := word_zero_of_target_eq_cmd hm hcmd
    simp [hidle] at h

/-- Settles O17: the two reads that the window allows are served; any other access is a violation, and only the CMD write with
BUSY = 0 has more than a violation's frame. -/
theorem busyWindowAccessSetsFault : Obligations.BusyWindowAccessSetsFault := by
  intro s off w op rest ha hz
  refine ⟨?status, ?bufsz, fun hoff hm hnot => ?violation⟩
  case status =>
    rintro rfl rfl rfl
    rw [step_access ha, hostAccess_allowed (.inl rfl)]
    rfl
  case bufsz =>
    rintro rfl rfl rfl
    rw [step_access ha, hostAccess_allowed (.inr rfl)]
    rfl
  case violation =>
    have hdenied : allowedInWindow off w op = false := Bool.eq_false_iff.2 fun hallow => hnot ((allowedInWindow_iff hm).1 hallow)
    refine ⟨_, (step_access ha).trans (hostAccess_violation (s := { s with agenda := rest }) hz hoff hm hdenied),
      hazardViolation_fault _ off w op, fun h => ⟨hazardViolation_frame (s := { s with agenda := rest }) hm h, ?_⟩⟩
    rintro v rfl
    exact hazardViolation_write _ off w v

end Sys2Proof.Machine
end
